-- ==== Sys2Proof/Word.lean ====
section
/-! DEFINITION. The word types of the part: bytes and 16-bit fields of records and of the calibration image,
and the 32-bit counts that wrap (scheduler ms count, admission number, open-order count). -/

namespace Sys2Proof

/-- One byte of a record or of the calibration image. -/
abbrev Byte := BitVec 8

/-- A two-byte field as it travels in a record (R179). -/
abbrev Half := BitVec 16

/-- A 32-bit count, modular (R50, R60, R77). -/
abbrev Count := BitVec 32

end Sys2Proof
end

