-- ==== Sys2Proof/Syntax.lean ====
section
/-! DEFINITION. The commands the part takes: one constructor of `Instr` per row of spec/opcode_table.json,
in the table's order up to `VDD_RECOVERY`, which the table lists last. A request carries its link header and its
payload fields as received; an invalid frame carries the bits clocked on SDI; a timer or pin event carries what the part
meets at that moment. -/

namespace Sys2Proof

/-- The four corners (scope, Terms: FL, FR, RL, RR, numbered 0, 1, 2, 3). -/
inductive Corner where
  | fl | fr | rl | rr
  deriving DecidableEq, Repr

/-- One value per corner; the four blocks of a kind are alike and independent. -/
structure PerCorner (α : Type) where
  fl : α
  fr : α
  rl : α
  rr : α
  deriving DecidableEq, Repr

/-- What every request frame carries besides its payload (R161): the sequence number, the mode code, and how
many further bytes the host clocks after the record's CRC (ignored on SDI, but they clock the reply out, R159). -/
structure LinkHeader where
  seq : BitVec 4
  mode : BitVec 4
  pad : Nat
  deriving DecidableEq, Repr

/-- A select period in which no request is performed, with the bits clocked on SDI since the fall of SSN (R158): one that
SSN has ended, or one as far as it has come while SSN is low. -/
inductive SelectPeriod where
  | ended (bits : List Bool)
  | inProgress (bits : List Bool)
  deriving DecidableEq, Repr

/-- BODY_STATE payload as received (section 11.3). -/
structure BodyFields where
  w : Half
  p : Half
  q : Half
  speed : Half
  direction : Byte
  floors : PerCorner Half
  deriving DecidableEq, Repr

/-- PREVIEW_EVENT payload as received (section 11.3). -/
structure EventFields where
  tag : Byte
  track : Byte
  severity : Byte
  report : Byte
  distance : Half
  length : Half
  lead : Half
  trail : Half
  cSoft : Half
  cFirm : Half
  deriving DecidableEq, Repr

/-- One corner's part of a CORNER_OPTIONS payload as received (section 11.3). -/
structure OptionFields where
  minSeverity : Byte
  mask : Byte
  deriving DecidableEq, Repr

/-- The commands of the block, one constructor per row of the table. -/
inductive Instr where
  | powerOnReset
  | brownoutReset
  | startLoadEnd
  | controlPeriod (corner : Corner) (sample : BitVec 12)
  | sensorFaultSet (corner : Corner) (sample : BitVec 12)
  | sensorFaultClear (corner : Corner) (sample : BitVec 12)
  | bodyAgeTick
  | travelStep
  | eventAgeExpiry (tag : Nat)
  | orphanAgeExpiry (corner : Corner)
  | drivePeriod (corner : Corner) (current : Nat)
  | openCoilDetected (corner : Corner) (current : Nat)
  | retryTimerExpiry (corner : Corner) (current : Nat)
  | cleanRunExpiry (corner : Corner) (current : Nat)
  | regLowSet (corner : Corner) (current : Nat)
  | regLowClear (corner : Corner) (current : Nat)
  | drvenFall
  | drvenRise
  | stoppingTimerExpiry
  | silenceTimerTick
  | linkSilenceExpiry
  | storeEnd (badCells : List (Nat × Byte))
  | invalidFrame (period : SelectPeriod)
  | nop (hdr : LinkHeader)
  | status (hdr : LinkHeader)
  | ident (hdr : LinkHeader)
  | bodyState (hdr : LinkHeader) (body : BodyFields)
  | previewEvent (hdr : LinkHeader) (event : EventFields)
  | cancelEvent (hdr : LinkHeader) (tag : Byte)
  | flushPreview (hdr : LinkHeader)
  | collect (hdr : LinkHeader) (count : Byte)
  | cornerOptions (hdr : LinkHeader) (options : PerCorner OptionFields)
  | readCorner (hdr : LinkHeader) (corner : Byte)
  | clearFaults (hdr : LinkHeader) (corners : Byte)
  | goActive (hdr : LinkHeader)
  | goStandby (hdr : LinkHeader)
  | enterLimp (hdr : LinkHeader)
  | resume (hdr : LinkHeader)
  | calSegment (hdr : LinkHeader) (index : Byte) (flags : Byte) (data : Vector Byte 32)
  | calRead (hdr : LinkHeader) (index : Byte)
  | calStore (hdr : LinkHeader)
  | restart (hdr : LinkHeader)
  | vddRecovery
  deriving DecidableEq, Repr

/-- The axle of a corner: front for FL and FR (scope, Terms). -/
def Corner.isFront : Corner → Bool
  | .fl | .fr => true
  | .rl | .rr => false

/-- The side of a corner: left for FL and RL (scope, Terms). -/
def Corner.isLeft : Corner → Bool
  | .fl | .rl => true
  | .fr | .rr => false

/-- The corner's number and code (scope, Terms; section 11.2). -/
def Corner.index : Corner → Nat
  | .fl => 0
  | .fr => 1
  | .rl => 2
  | .rr => 3

/-- The four corners in corner order. -/
def Corner.all : List Corner := [.fl, .fr, .rl, .rr]

def PerCorner.get {α : Type} (v : PerCorner α) : Corner → α
  | .fl => v.fl
  | .fr => v.fr
  | .rl => v.rl
  | .rr => v.rr

def PerCorner.set {α : Type} (v : PerCorner α) (c : Corner) (x : α) : PerCorner α :=
  match c with
  | .fl => { v with fl := x }
  | .fr => { v with fr := x }
  | .rl => { v with rl := x }
  | .rr => { v with rr := x }

def PerCorner.map {α β : Type} (f : α → β) (v : PerCorner α) : PerCorner β :=
  { fl := f v.fl, fr := f v.fr, rl := f v.rl, rr := f v.rr }

/-- The value built corner by corner. -/
def PerCorner.build {α : Type} (f : Corner → α) : PerCorner α :=
  { fl := f .fl, fr := f .fr, rl := f .rl, rr := f .rr }

def PerCorner.replicate {α : Type} (x : α) : PerCorner α :=
  { fl := x, fr := x, rl := x, rr := x }

def PerCorner.toList {α : Type} (v : PerCorner α) : List α := [v.fl, v.fr, v.rl, v.rr]

end Sys2Proof
end

