-- ==== Sys2Proof/Decode.lean ====
section
/-! DEFINITION. Commands from the words of spec/opcode_table.json. The table gives no row a word: it lists no fixed bits
and no fields, since all access to the part is by records over the link and by events (scope, Note 1). The frames of
the link's requests are decoded in Sys2Proof/Machine/Frame.lean. -/

namespace Sys2Proof

/-- The command a table word spells: none, for every word. -/
def decodeTableWord (_nbits _w : Nat) : Option Instr := none

end Sys2Proof
end

