-- ==== Sys2Proof/Config.lean ====
section
/-! DEFINITION. What the spec leaves free. -/

namespace Sys2Proof

/-- How far an interrupted store had come (R177, section 10.6: "partly of the new image and partly of the old"):
for the n-th interrupted store, whether the byte at an offset had already been written. The spec gives no order
and no progress, so nothing constrains it (log entry 3). -/
opaque Config.storeReached : Nat → Nat → Bool

end Sys2Proof
end

