-- ==== Sys2Proof/Machine/State.lean ====
section
/-! DEFINITION. The state of the DQ-4, block by block, as the spec's state tables give it (sections 1.1, 1.2, 2.1,
3.1, 4.1, 5.2, 6.1, 7.1, 8.1, 9.1, 10.1), the model's own fields, and the state right after a power-on reset.
Every quantity the spec counts is a `Nat` or an `Int`; bit vectors stand where a count wraps modulo 2^32 and where
a record holds bits. -/

namespace Sys2Proof.Machine

open Sys2Proof

/-! ## Named values -/

/-- Part state (R140). -/
inductive PartState where
  | start | standby | active | stopping | limp
  deriving DecidableEq, Repr

/-- Driving mode (R21). -/
inductive Mode where
  | comfort | normal | sport | dynamic
  deriving DecidableEq, Repr

/-- Direction of a body-state record (R11). -/
inductive Direction where
  | forward | reverse
  deriving DecidableEq, Repr

/-- Drive state (section 7.1). -/
inductive DriveState where
  | off | regulating | overloadWait | faultOpen | faultShort
  deriving DecidableEq, Repr

/-- Regulation status of a drive period (R126). -/
inductive RegStatus where
  | none | inBand | low | high | tracking
  deriving DecidableEq, Repr

/-- Target source of a drive stage (R120). -/
inductive Source where
  | none | law | limp
  deriving DecidableEq, Repr

/-- Limp reason (R148). -/
inductive LimpReason where
  | requested | enaLow | linkLost | cornerFault
  deriving DecidableEq, Repr

/-- A set of limp reasons. -/
structure LimpReasons where
  requested : Bool
  enaLow : Bool
  linkLost : Bool
  cornerFault : Bool
  deriving DecidableEq, Repr

/-- Restart cause (R141). -/
inductive RestartCause where
  | power | brownout | requested
  deriving DecidableEq, Repr

/-- Working image state (R170). -/
inductive ImageState where
  | invalid | valid | receiving
  deriving DecidableEq, Repr

/-- Download state (R173). -/
inductive DownloadState where
  | idle | receiving | aborted
  deriving DecidableEq, Repr

/-- Store state (R176). -/
inductive StoreState where
  | idle | busy
  deriving DecidableEq, Repr

/-- Last store result (R177). -/
inductive StoreResult where
  | none | ok | failed
  deriving DecidableEq, Repr

/-- Invalid-frame cause (R163). -/
inductive LinkCause where
  | shortFrame | overrun | badKind | badLength | crc
  deriving DecidableEq, Repr

/-- Reply kind (R166). -/
inductive ReplyKind where
  | done | refused | linkError | restarted
  deriving DecidableEq, Repr

/-- Track of an event (R48). -/
inductive Track where
  | left | right | both
  deriving DecidableEq, Repr

/-- Report point of an event (section 3.1). -/
inductive ReportPoint where
  | early | late | forcedLate
  deriving DecidableEq, Repr

/-- What a window belongs to (section 3.1): the event holding a tag, or nothing. -/
inductive Parent where
  | event (tag : Nat)
  | orphan
  deriving DecidableEq, Repr

/-- Outcome of a window's retirement (R57). -/
inductive WindowOutcome where
  | served | overridden | skipped | cancelled | expired
  deriving DecidableEq, Repr

/-- Outcome of an event, in its completion record (R96); `partly` is the spec's PARTIAL. -/
inductive EventOutcome where
  | applied | partly | notApplied | cancelled | flushed | expired
  deriving DecidableEq, Repr

/-- Phase of a window (R53). -/
inductive Phase where
  | before | approach | contact | rebound | passed
  deriving DecidableEq, Repr

/-! ## Wheel travel acquisition (section 1.1) -/

/-- F and the previous filter value; they are both set or both unset. -/
structure Filter where
  value : Int
  previous : Int
  deriving DecidableEq, Repr

/-- Acquisition state of one corner. `adc` is `none` while no conversion has been made (R8). -/
structure Acquisition where
  adc : Option (BitVec 12)
  x : Int
  filter : Option Filter
  vRel : Int
  bad : Nat
  good : Nat
  sensor : Bool
  deriving DecidableEq, Repr

/-! ## Motion input (section 1.2) -/

/-- The body-state record last accepted and its age. -/
structure Motion where
  w : Int
  p : Int
  q : Int
  speed : Nat
  direction : Direction
  floors : PerCorner Nat
  age : Nat
  deriving DecidableEq, Repr

/-! ## Mode selector (section 2.1) -/

/-- Mode in force and last valid code seen; a code 0..3 is held as its mode. -/
structure ModeSelector where
  inForce : Mode
  lastCode : Option Mode
  deriving DecidableEq, Repr

/-! ## Corner law unit (sections 1.3, 2.3, 6.1) -/

/-- Results a corner holds from its control periods: body velocity and STALE mark (R20), law values and limiter
memory (R34), band and target (section 6.1). -/
structure LawResults where
  vBody : Int
  stale : Bool
  cLaw : Nat
  cA : Nat
  cB : Nat
  cC : Nat
  cOut : Nat
  cPrev : Nat
  band : Nat
  iTgt : Nat
  deriving DecidableEq, Repr

/-! ## Preview scheduler and arbiters (sections 3.1, 4.1, 5.2) -/

/-- A window record. Whether it is PENDING or open is given by where it stands: in the scheduler's list of PENDING
windows, or in its corner's arbiter (log entry 6). -/
structure Window where
  corner : Corner
  parent : Parent
  severity : Nat
  lead : Nat
  length : Nat
  trail : Nat
  cSoft : Nat
  cFirm : Nat
  pos : Int
  admissionMs : Count
  admissionNo : Count
  deriving DecidableEq, Repr

/-- A window in arbitration with its open-order number (section 4.1). -/
structure HeldWindow where
  win : Window
  order : Count
  deriving DecidableEq, Repr

/-- An arbiter: ACTIVE window, shaping stack (bottom first, in push order), waiting set (in open order), open-order
count, selection-due mark and corner options. -/
structure Arbiter where
  active : Option HeldWindow
  stack : List HeldWindow
  waiting : List HeldWindow
  openCount : Count
  selectionDue : Bool
  minSeverity : Nat
  reportRegLow : Bool
  reportSensor : Bool
  deriving DecidableEq, Repr

/-- Served, overridden and skipped counts of one axle of an event. -/
structure OutcomeCounts where
  served : Nat
  overridden : Nat
  skipped : Nat
  deriving DecidableEq, Repr

/-- An event entry. Its live-window references are its windows in the store, found by their parent (log entry 6). -/
structure Event where
  tag : Nat
  track : Track
  severity : Nat
  report : ReportPoint
  admissionMs : Count
  admissionNo : Count
  front : OutcomeCounts
  rear : OutcomeCounts
  deriving DecidableEq, Repr

/-- A completion record (R93). -/
structure Completion where
  tag : Nat
  outcome : EventOutcome
  report : ReportPoint
  served : Nat
  overridden : Nat
  skipped : Nat
  age : Nat
  deriving DecidableEq, Repr

/-- The preview scheduler: event table in admission order, PENDING windows of the store, completion list (oldest
first), orphan count, travel carry, ms count and the admission number the next admission takes. -/
structure Scheduler where
  events : List Event
  pendingWindows : List Window
  completions : List Completion
  orphanCount : Nat
  carry : Nat
  msCount : Count
  admissionNo : Count
  deriving DecidableEq, Repr

/-! ## Valve drive stage (sections 6.5, 7.1) -/

/-- A drive stage with its target latch. `target` is the i_tgt of the most recent drive period; `shownDuty` and
`shownStatus` are D and the regulation status as that period left them, which READ_CORNER shows (R42, R139), while `duty`
and `status` follow the transitions between two periods as well (R121, R122). -/
structure Drive where
  state : DriveState
  duty : Nat
  iMeas : Nat
  target : Nat
  latch : Nat
  status : RegStatus
  shownDuty : Nat
  shownStatus : RegStatus
  lowRun : Nat
  inRun : Nat
  regLow : Bool
  openCount : Nat
  retry : Nat
  wait : Nat
  cleanRun : Nat
  deriving DecidableEq, Repr

/-! ## Supervisor (section 8.1) -/

/-- The supervisor. `stoppingTimer` holds the elapsed ms while the STOPPING timer runs. -/
structure Supervisor where
  part : PartState
  limpFirst : Option LimpReason
  limpSet : LimpReasons
  restartCause : RestartCause
  linkErr : Bool
  restarted : Bool
  limpEntered : Bool
  faultNew : Bool
  stoppingTimer : Option Nat
  source : PerCorner Source
  deriving DecidableEq, Repr

/-! ## Link port (section 9.1) -/

/-- A reply record before its CRC is appended (R166). -/
structure Reply where
  kind : ReplyKind
  condition : Byte
  seq : BitVec 4
  payload : List Byte
  deriving DecidableEq, Repr

/-- Receive state (section 9.1): SSN high; a select period with the bits received so far, oldest first; or SSN low in a
select period that was open at a reset, which is not taken as a transaction. -/
inductive ReceiveState where
  | idle
  | selected (bits : List Bool)
  | barred
  deriving DecidableEq, Repr

/-- The byte and bit of the pending reply next to be presented on SDO. -/
structure TransmitPosition where
  byte : Nat
  bit : Nat
  deriving DecidableEq, Repr

/-- The link port. -/
structure LinkPort where
  receive : ReceiveState
  reply : Reply
  txPos : TransmitPosition
  errorLatch : Bool
  lastCause : Option LinkCause
  silence : Nat
  deriving DecidableEq, Repr

/-! ## Calibration store (section 10.1) -/

/-- An image memory of 320 bytes: cells with addresses strictly rising below 320, none holding 0. An offset that is
not listed reads 0 (section 10.1: "all bytes 0 until the START load fills them"; for the nonvolatile image before
any store, log entry 4). -/
abbrev Memory := List Host.Cell

/-- The calibration store. -/
structure CalStore where
  working : Memory
  imageState : ImageState
  download : DownloadState
  expected : Nat
  accepted : Nat
  store : StoreState
  lastResult : StoreResult
  nv : Memory
  nvMark : Bool
  deriving DecidableEq, Repr

/-! ## The whole part -/

/-- The part. The last five fields are not the spec's registers: `held` says VDD is low and the part is kept in
reset (R141); `drven` is the level of the DRVEN pin; `sdo` records the bits clocked out in the most recent
transaction, in their order; `freeCount` is the model's counter of free values; `pending` is the queue of commands that wait. -/
structure State where
  acq : PerCorner Acquisition
  law : PerCorner LawResults
  arb : PerCorner Arbiter
  drive : PerCorner Drive
  motion : Motion
  modes : ModeSelector
  sched : Scheduler
  sup : Supervisor
  link : LinkPort
  cal : CalStore
  held : Bool
  drven : Bool
  sdo : List Bool
  freeCount : Nat
  pending : List Instr
  deriving DecidableEq, Repr

/-- No command stops the part: the spec gives every command an effect in every state, so there is no fault. -/
inductive Fault where
  deriving DecidableEq, Repr

/-- Why a command has no meaning. -/
inductive Refusal where
  /-- Raised by `exec`'s arm of a command that has no meaning yet; safe, the run stops. No arm raises it now. -/
  | notModelled (mnemonic : String)
  deriving DecidableEq, Repr

/-- What a command's meaning answers. -/
abbrev Result := Host.Outcome State Fault Refusal

/-! ## After a power-on reset -/

/-- Section 1.1, R8. -/
def Acquisition.reset : Acquisition :=
  { adc := none, x := 0, filter := none, vRel := 0, bad := 0, good := 0, sensor := false }

/-- Section 1.2, R16. -/
def Motion.reset : Motion :=
  { w := 0, p := 0, q := 0, speed := 0, direction := .forward, floors := PerCorner.replicate 0, age := 255 }

/-- Section 2.1, R21. -/
def ModeSelector.reset : ModeSelector := { inForce := .normal, lastCode := none }

/-- R20, R34, R104. -/
def LawResults.reset : LawResults :=
  { vBody := 0, stale := true, cLaw := 0, cA := 0, cB := 0, cC := 0, cOut := 0, cPrev := 0, band := 0, iTgt := 0 }

/-- Section 4.1, R72. -/
def Arbiter.reset : Arbiter :=
  { active := none, stack := [], waiting := [], openCount := 0, selectionDue := false, minSeverity := 1,
    reportRegLow := true, reportSensor := true }

/-- Section 3.1, R44, R97. -/
def Scheduler.reset : Scheduler :=
  { events := [], pendingWindows := [], completions := [], orphanCount := 0, carry := 0, msCount := 0, admissionNo := 0 }

/-- Section 7.1, R118, R114. -/
def Drive.reset : Drive :=
  { state := .off, duty := 0, iMeas := 0, target := 0, latch := 0, status := .none, shownDuty := 0,
    shownStatus := .none, lowRun := 0, inRun := 0, regLow := false, openCount := 0, retry := 0, wait := 0, cleanRun := 0 }

/-- The empty reason set. -/
def LimpReasons.empty : LimpReasons :=
  { requested := false, enaLow := false, linkLost := false, cornerFault := false }

/-- Section 8.1, R140, with the cause of the reset. -/
def Supervisor.reset (cause : RestartCause) : Supervisor :=
  { part := .start, limpFirst := none, limpSet := LimpReasons.empty, restartCause := cause, linkErr := false,
    restarted := true, limpEntered := false, faultNew := false, stoppingTimer := none,
    source := PerCorner.replicate .none }

/-- Restart cause codes (section 11.2). -/
def RestartCause.code : RestartCause → Byte
  | .power => 0x01
  | .brownout => 0x02
  | .requested => 0x03

/-- The RESTARTED reply (R169): its condition code is H'28 (section 11.2), it echoes sequence 0 and carries the cause. -/
def Reply.restarted (cause : RestartCause) : Reply :=
  { kind := .restarted, condition := 0x28, seq := 0, payload := [cause.code] }

/-- Section 9.1, R169, with the cause of the reset, SSN being high. -/
def LinkPort.reset (cause : RestartCause) : LinkPort :=
  { receive := .idle, reply := Reply.restarted cause, txPos := { byte := 0, bit := 0 }, errorLatch := false,
    lastCause := none, silence := 0 }

/-- Section 10.1, R170; the nonvolatile image and its mark are kept through a reset. -/
def CalStore.reset (nv : Memory) (mark : Bool) : CalStore :=
  { working := [], imageState := .invalid, download := .idle, expected := 0, accepted := 0, store := .idle,
    lastResult := .none, nv := nv, nvMark := mark }

/-- The machine right after a power-on reset: every block at its reset value, START begun with cause POWER, no
command waiting. DESIGN CHOICE: the spec gives no content of a nonvolatile memory that was never stored and no level of DRVEN:
an empty memory without its completion mark, and DRVEN low (log entries 4 and 5). -/
def State.reset : State :=
  { acq := PerCorner.replicate Acquisition.reset
    law := PerCorner.replicate LawResults.reset
    arb := PerCorner.replicate Arbiter.reset
    drive := PerCorner.replicate Drive.reset
    motion := Motion.reset
    modes := ModeSelector.reset
    sched := Scheduler.reset
    sup := Supervisor.reset .power
    link := LinkPort.reset .power
    cal := CalStore.reset [] false
    held := false
    drven := false
    sdo := []
    freeCount := 0
    pending := [] }

end Sys2Proof.Machine
end

