-- ==== Sys2Proof/Machine/Operands.lean ====
section
/-! DEFINITION. How fields are read from records and images and written into them: clamps (scope, Conventions),
byte order and two's complement (R179), and the codes of section 11.2. -/

namespace Sys2Proof.Machine

open Sys2Proof

/-! ## Clamps -/

/-- "Clamped to a..b" for signed quantities (scope, Conventions). -/
def clampInt (lo hi v : Int) : Int := if v < lo then lo else if hi < v then hi else v

/-- "Clamped to a..b" for unsigned quantities. -/
def clampNat (lo hi v : Nat) : Nat := if v < lo then lo else if hi < v then hi else v

/-! ## Byte order (R179) -/

/-- An unsigned two-byte field, most significant byte first. -/
def half (h : Half) : List Byte := [h.extractLsb' 8 8, h.extractLsb' 0 8]

/-- A natural number sent as an unsigned two-byte field. -/
def natBytes (n : Nat) : List Byte := half (BitVec.ofNat 16 n)

/-- An integer sent as a signed two-byte field, two's complement. -/
def intBytes (i : Int) : List Byte := half (BitVec.ofInt 16 i)

/-- The two-byte field made of a high and a low byte. -/
def joinBytes (hi lo : Byte) : Half := hi ++ lo

/-- One indication as a number. -/
def bit (b : Bool) : Nat := if b then 1 else 0

/-- A byte of indications, bit 0 first (R179). -/
def bitsByte (bs : List Bool) : Byte := BitVec.ofNat 8 (bs.foldr (fun b n => bit b + 2 * n) 0)

/-- A corner set: bit n for corner n (section 11.2). -/
def cornerSetByte (v : PerCorner Bool) : Byte := bitsByte v.toList

/-! ## Codes -/

/-- The mode of a code 0..3; 4..15 name no mode (section 11.2, R22). -/
def modeOfCode (code : BitVec 4) : Option Mode :=
  match code.toNat with
  | 0 => some .comfort
  | 1 => some .normal
  | 2 => some .sport
  | 3 => some .dynamic
  | _ => none

def Mode.code : Mode → Nat
  | .comfort => 0
  | .normal => 1
  | .sport => 2
  | .dynamic => 3

def PartState.code : PartState → Nat
  | .start => 0
  | .standby => 1
  | .active => 2
  | .stopping => 3
  | .limp => 4

def ImageState.code : ImageState → Nat
  | .invalid => 0
  | .valid => 1
  | .receiving => 2

def DownloadState.code : DownloadState → Nat
  | .idle => 0
  | .receiving => 1
  | .aborted => 2

def StoreState.code : StoreState → Nat
  | .idle => 0
  | .busy => 1

def StoreResult.code : StoreResult → Nat
  | .none => 0
  | .ok => 1
  | .failed => 2

def LinkCause.code : LinkCause → Nat
  | .shortFrame => 1
  | .overrun => 2
  | .badKind => 3
  | .badLength => 4
  | .crc => 5

/-- 0 means none (section 11.2). -/
def lastCauseCode : Option LinkCause → Nat
  | none => 0
  | some c => c.code

def ReplyKind.code : ReplyKind → Byte
  | .done => 0x01
  | .refused => 0x02
  | .linkError => 0x03
  | .restarted => 0x04

def LimpReason.code : LimpReason → Nat
  | .requested => 1
  | .enaLow => 2
  | .linkLost => 3
  | .cornerFault => 4

/-- none is 0 (section 11.4). -/
def limpFirstCode : Option LimpReason → Nat
  | none => 0
  | some r => r.code

def DriveState.code : DriveState → Nat
  | .off => 0
  | .regulating => 1
  | .overloadWait => 2
  | .faultOpen => 3
  | .faultShort => 4

def RegStatus.code : RegStatus → Nat
  | .none => 0
  | .inBand => 1
  | .low => 2
  | .high => 3
  | .tracking => 4

/-- Phase codes (section 11.4). An ACTIVE window is never BEFORE or PASSED (R53); those two take code 0. -/
def Phase.code : Phase → Nat
  | .before => 0
  | .approach => 1
  | .contact => 2
  | .rebound => 3
  | .passed => 0

def ReportPoint.code : ReportPoint → Nat
  | .early => 1
  | .late => 2
  | .forcedLate => 3

def EventOutcome.code : EventOutcome → Nat
  | .applied => 1
  | .partly => 2
  | .notApplied => 3
  | .cancelled => 4
  | .flushed => 5
  | .expired => 6

/-- The track of a code (section 11.2). -/
def trackOfCode (b : Byte) : Option Track :=
  match b.toNat with
  | 1 => some .left
  | 2 => some .right
  | 3 => some .both
  | _ => none

/-- The report point of a request's code: EARLY or LATE alone (R48). -/
def reportOfCode (b : Byte) : Option ReportPoint :=
  match b.toNat with
  | 1 => some .early
  | 2 => some .late
  | _ => none

/-- The direction stored for a code (R11, R180): an unknown code is stored as FORWARD. -/
def directionOfCode (b : Byte) : Direction := if b = 0x01 then .reverse else .forward

/-- The corner of a number 0..3. -/
def cornerOfCode (b : Byte) : Option Corner :=
  match b.toNat with
  | 0 => some .fl
  | 1 => some .fr
  | 2 => some .rl
  | 3 => some .rr
  | _ => none

/-- Refusal codes (R166, section 11.2). -/
inductive RefusalCode where
  | wrongState | limpActive | busy | badValue | badTag | tagBusy | notFound | alreadyDone | tooLate
  | wrongDirection | notReady | sequence | calInvalid
  deriving DecidableEq, Repr

def RefusalCode.code : RefusalCode → Byte
  | .wrongState => 0x01
  | .limpActive => 0x02
  | .busy => 0x03
  | .badValue => 0x04
  | .badTag => 0x05
  | .tagBusy => 0x06
  | .notFound => 0x07
  | .alreadyDone => 0x08
  | .tooLate => 0x09
  | .wrongDirection => 0x0A
  | .notReady => 0x0B
  | .sequence => 0x0C
  | .calInvalid => 0x0D

end Sys2Proof.Machine
end

