-- ==== Sys2Proof/Machine/Ops.lean ====
section
/-! DEFINITION. The named operations over image memories and over the blocks' state that several commands share,
and the reset of the blocks. -/

namespace Sys2Proof.Machine

open Sys2Proof

/-! ## Image memories (section 10.1) -/

/-- Number of bytes of an image. -/
def imageBytes : Nat := 320

/-- The byte held at an offset; an offset that is not listed reads 0. -/
def Memory.read : Memory → Nat → Byte
  | [], _ => 0
  | (k, v) :: rest, a => if k = a then v else Memory.read rest a

/-- The canonical form: addresses strictly rising below 320, no listed 0. -/
abbrev Memory.wf (m : Memory) : Prop :=
  (m.map Prod.fst).Pairwise (· < ·) ∧ ∀ cell ∈ m, cell.1 < imageBytes ∧ cell.2 ≠ 0

/-- The cell of an offset and its byte, where the byte is one a canonical memory lists. -/
def Memory.cellOf (a : Nat) (b : Byte) : Memory := if b = 0 then [] else [(a, b)]

/-- The memory with one byte written; it keeps the canonical form. -/
def Memory.write : Memory → Nat → Byte → Memory
  | [], a, b => Memory.cellOf a b
  | (k, v) :: rest, a, b =>
    if a < k then Memory.cellOf a b ++ (k, v) :: rest
    else if a = k then Memory.cellOf a b ++ rest
    else (k, v) :: Memory.write rest a b

/-- Consecutive bytes written from an offset on. -/
def Memory.writeBytes : Memory → Nat → List Byte → Memory
  | m, _, [] => m
  | m, a, b :: rest => Memory.writeBytes (m.write a b) (a + 1) rest

/-- Single cells written one after the other. -/
def Memory.writeCells : Memory → List (Nat × Byte) → Memory
  | m, [] => m
  | m, (a, b) :: rest => Memory.writeCells (m.write a b) rest

/-- The image whose byte at each offset `a < 320` is `f a`. -/
def Memory.ofFn (f : Nat → Byte) : Memory :=
  (List.range imageBytes).flatMap fun a => Memory.cellOf a (f a)

/-- Consecutive bytes read from an offset on. -/
def Memory.bytes (m : Memory) (a n : Nat) : List Byte := (List.range n).map fun k => m.read (a + k)

/-- The unsigned two-byte field at an offset (R179). -/
def Memory.word (m : Memory) (a : Nat) : Nat := (m.read a).toNat * 256 + (m.read (a + 1)).toNat

/-! ## Updates of one block of one corner -/

def State.setAcq (s : State) (c : Corner) (q : Acquisition) : State := { s with acq := s.acq.set c q }

def State.setLaw (s : State) (c : Corner) (l : LawResults) : State := { s with law := s.law.set c l }

def State.setArb (s : State) (c : Corner) (a : Arbiter) : State := { s with arb := s.arb.set c a }

def State.setDrive (s : State) (c : Corner) (d : Drive) : State := { s with drive := s.drive.set c d }

def State.setSched (s : State) (sch : Scheduler) : State := { s with sched := sch }

def State.setSup (s : State) (u : Supervisor) : State := { s with sup := u }

def State.setCal (s : State) (k : CalStore) : State := { s with cal := k }

def State.setMotion (s : State) (m : Motion) : State := { s with motion := m }

def State.setReply (s : State) (r : Reply) : State := { s with link := { s.link with reply := r } }

def LimpReasons.add (set : LimpReasons) : LimpReason → LimpReasons
  | .requested => { set with requested := true }
  | .enaLow => { set with enaLow := true }
  | .linkLost => { set with linkLost := true }
  | .cornerFault => { set with cornerFault := true }

/-- A reason added to the limp reason set (R153); the first reason stays. -/
def State.addLimpReason (s : State) (r : LimpReason) : State :=
  s.setSup { s.sup with limpSet := s.sup.limpSet.add r }

/-! ## Reset (R140, R141, R170) -/

/-- What a reset leaves in the nonvolatile image: it is kept, but for a store in progress, which ends at once with
each byte either still the old one or already the new one (R177). -/
def nvAfterReset (s : State) : Memory :=
  if s.cal.store = .busy then
    Memory.ofFn fun a => if Config.storeReached s.freeCount a then s.cal.working.read a else s.cal.nv.read a
  else s.cal.nv

/-- The reset of every block, with its cause (R8, R16, R21, R44, R72, R97, R104, R118, R140, R169, R170). The
completion mark needs no change: a store cleared it at its first step (R177). The pin level, the record of the last
transaction and the queue are not the blocks'. -/
def resetBlocks (cause : RestartCause) (s : State) : State :=
  { State.reset with
    sup := Supervisor.reset cause
    link := LinkPort.reset cause
    cal := CalStore.reset (nvAfterReset s) s.cal.nvMark
    held := s.held
    drven := s.drven
    sdo := s.sdo
    freeCount := if s.cal.store = .busy then s.freeCount + 1 else s.freeCount
    pending := s.pending }

/-- A command has its effect on a part that is running; a part held in reset by VDD takes nothing (R141, R158). -/
def whenRunning (f : State → State) (s : State) : Result := .next (if s.held then s else f s)

/-- A row of the table that names a particular occasion of a timer step has its effect when that occasion is at
hand; otherwise the event does not happen (DESIGN CHOICE, log entry 1). -/
def whenOccurs (occasion : State → Bool) (f : State → State) (s : State) : Result :=
  whenRunning (fun t => if occasion t then f t else t) s

end Sys2Proof.Machine
end

