-- ==== Sys2Proof/Machine/Frame.lean ====
section
/-! DEFINITION. Records on the link: the CRC (R162), request kinds with their codes and payload lengths (section
11.2), the checks of a received frame (R163), and the two directions between a request frame and its command
(R161, section 11.3). -/

namespace Sys2Proof.Machine

open Sys2Proof

/-! ## CRC (R162) -/

/-- One bit taken into the CRC register: shift left by one; where the bit shifted out differs from the data bit,
exclusive-or with H'1021. -/
def crcBit (reg : BitVec 16) (b : Bool) : BitVec 16 :=
  if reg.msb != b then (reg <<< 1) ^^^ 0x1021#16 else reg <<< 1

/-- The bits of a byte, most significant first. -/
def byteBits (b : Byte) : List Bool :=
  [b.getLsbD 7, b.getLsbD 6, b.getLsbD 5, b.getLsbD 4, b.getLsbD 3, b.getLsbD 2, b.getLsbD 1, b.getLsbD 0]

def crcByte (reg : BitVec 16) (b : Byte) : BitVec 16 := (byteBits b).foldl crcBit reg

/-- The CRC over the bytes of a record before its CRC: register from H'FFFF, no final combination. -/
def crc16 (bytes : List Byte) : BitVec 16 := bytes.foldl crcByte 0xFFFF#16

/-- The bits of bytes, in the order in which they are clocked: byte by byte, each most significant bit first (R158,
R159). -/
def bitsOf (bytes : List Byte) : List Bool := bytes.flatMap byteBits

/-- A byte from its bits, most significant first. -/
def byteOf (b7 b6 b5 b4 b3 b2 b1 b0 : Bool) : Byte :=
  BitVec.ofNat 8 (128 * b7.toNat + 64 * b6.toNat + 32 * b5.toNat + 16 * b4.toNat + 8 * b3.toNat + 4 * b2.toNat
    + 2 * b1.toNat + b0.toNat)

/-- A record with its CRC appended, high byte first. -/
def withCrc (bytes : List Byte) : List Byte := bytes ++ half (crc16 bytes)

/-! ## Kinds (section 11.2) -/

inductive RequestKind where
  | nop | status | ident | bodyState | previewEvent | cancelEvent | flushPreview | collect | cornerOptions
  | readCorner | clearFaults | goActive | goStandby | enterLimp | resume | calSegment | calRead | calStore | restart
  deriving DecidableEq, Repr

def RequestKind.code : RequestKind → Byte
  | .nop => 0x01
  | .status => 0x02
  | .ident => 0x03
  | .bodyState => 0x04
  | .previewEvent => 0x05
  | .cancelEvent => 0x06
  | .flushPreview => 0x07
  | .collect => 0x08
  | .cornerOptions => 0x09
  | .readCorner => 0x0A
  | .clearFaults => 0x0B
  | .goActive => 0x0C
  | .goStandby => 0x0D
  | .enterLimp => 0x0E
  | .resume => 0x0F
  | .calSegment => 0x10
  | .calRead => 0x11
  | .calStore => 0x12
  | .restart => 0x13

/-- The kind a code names, if any. -/
def kindOfCode (b : Byte) : Option RequestKind :=
  match b.toNat with
  | 0x01 => some .nop
  | 0x02 => some .status
  | 0x03 => some .ident
  | 0x04 => some .bodyState
  | 0x05 => some .previewEvent
  | 0x06 => some .cancelEvent
  | 0x07 => some .flushPreview
  | 0x08 => some .collect
  | 0x09 => some .cornerOptions
  | 0x0A => some .readCorner
  | 0x0B => some .clearFaults
  | 0x0C => some .goActive
  | 0x0D => some .goStandby
  | 0x0E => some .enterLimp
  | 0x0F => some .resume
  | 0x10 => some .calSegment
  | 0x11 => some .calRead
  | 0x12 => some .calStore
  | 0x13 => some .restart
  | _ => none

/-- The one payload length of a kind (section 11.2, R181). -/
def RequestKind.payload : RequestKind → Nat
  | .nop => 0
  | .status => 0
  | .ident => 0
  | .bodyState => 17
  | .previewEvent => 16
  | .cancelEvent => 1
  | .flushPreview => 0
  | .collect => 1
  | .cornerOptions => 8
  | .readCorner => 1
  | .clearFaults => 1
  | .goActive => 0
  | .goStandby => 0
  | .enterLimp => 0
  | .resume => 0
  | .calSegment => 34
  | .calRead => 1
  | .calStore => 0
  | .restart => 0

/-- Bytes of a request's transaction: record and padding. -/
def transactionBytes (k : RequestKind) (h : LinkHeader) : Nat := k.payload + 5 + h.pad

/-! ## Checking a frame (R163) -/

/-- A frame received: the whole bytes, and how many bits followed the last whole byte. The bits of an unfinished byte are
never read (R163, R164). -/
structure RxFrame where
  bytes : List Byte
  extraBits : Fin 8
  deriving DecidableEq, Repr

/-- The bits received in a select period gathered into bytes, most significant bit first (R158). -/
def gatherBits : List Bool → RxFrame
  | b7 :: b6 :: b5 :: b4 :: b3 :: b2 :: b1 :: b0 :: rest =>
    { gatherBits rest with bytes := byteOf b7 b6 b5 b4 b3 b2 b1 b0 :: (gatherBits rest).bytes }
  | bits => { bytes := [], extraBits := Fin.ofNat 8 bits.length }

/-- Number of bits received. -/
def frameBits (f : RxFrame) : Nat := 8 * f.bytes.length + f.extraBits.val

/-- The sequence number a LINK_ERROR reply echoes: the high half of the second byte, 0 when fewer than two whole
bytes were received (R164). -/
def frameSeq (f : RxFrame) : BitVec 4 :=
  match f.bytes with
  | _ :: b :: _ => b.extractLsb' 4 4
  | _ => 0

/-- Checks 4 to 7 of R163, once the kind is known. -/
def bodyFault (k : RequestKind) (bytes : List Byte) : Option LinkCause :=
  match bytes with
  | _ :: _ :: len :: _ =>
    if len.toNat ≠ k.payload then some .badLength
    else if bytes.length < k.payload + 5 then some .shortFrame
    else if half (crc16 (bytes.take (k.payload + 3))) ≠ (bytes.drop (k.payload + 3)).take 2 then some .crc
    else none
  | _ => some .shortFrame

/-- The first fault of a received frame, in the order of R163; a frame with none is valid. -/
def frameFault (f : RxFrame) : Option LinkCause :=
  if frameBits f > 384 then some .overrun
  else if f.extraBits.val ≠ 0 then some .shortFrame
  else
    match f.bytes with
    | [] => some .shortFrame
    | kind :: _ =>
      match kindOfCode kind with
      | none => some .badKind
      | some k => bodyFault k f.bytes

/-! ## A request frame and its command (R161, section 11.3) -/

def optionBytes (o : OptionFields) : List Byte := [o.minSeverity, o.mask]

/-- The kind, header and payload of a request. -/
def requestParts : Instr → Option (RequestKind × LinkHeader × List Byte)
  | .powerOnReset | .brownoutReset | .startLoadEnd | .controlPeriod _ _ => none
  | .sensorFaultSet _ _ | .sensorFaultClear _ _ | .bodyAgeTick | .travelStep => none
  | .eventAgeExpiry _ | .orphanAgeExpiry _ | .drivePeriod _ _ | .openCoilDetected _ _ => none
  | .retryTimerExpiry _ _ | .cleanRunExpiry _ _ | .regLowSet _ _ | .regLowClear _ _ => none
  | .drvenFall | .drvenRise | .stoppingTimerExpiry | .silenceTimerTick => none
  | .linkSilenceExpiry | .storeEnd _ | .invalidFrame _ | .vddRecovery => none
  | .nop h => some (.nop, h, [])
  | .status h => some (.status, h, [])
  | .ident h => some (.ident, h, [])
  | .bodyState h b =>
    some (.bodyState, h, half b.w ++ half b.p ++ half b.q ++ half b.speed ++ [b.direction]
      ++ half b.floors.fl ++ half b.floors.fr ++ half b.floors.rl ++ half b.floors.rr)
  | .previewEvent h e =>
    some (.previewEvent, h, [e.tag, e.track, e.severity, e.report] ++ half e.distance ++ half e.length
      ++ half e.lead ++ half e.trail ++ half e.cSoft ++ half e.cFirm)
  | .cancelEvent h tag => some (.cancelEvent, h, [tag])
  | .flushPreview h => some (.flushPreview, h, [])
  | .collect h n => some (.collect, h, [n])
  | .cornerOptions h o =>
    some (.cornerOptions, h, optionBytes o.fl ++ optionBytes o.fr ++ optionBytes o.rl ++ optionBytes o.rr)
  | .readCorner h c => some (.readCorner, h, [c])
  | .clearFaults h c => some (.clearFaults, h, [c])
  | .goActive h => some (.goActive, h, [])
  | .goStandby h => some (.goStandby, h, [])
  | .enterLimp h => some (.enterLimp, h, [])
  | .resume h => some (.resume, h, [])
  | .calSegment h index flags data => some (.calSegment, h, [index, flags] ++ data.toList)
  | .calRead h index => some (.calRead, h, [index])
  | .calStore h => some (.calStore, h, [])
  | .restart h => some (.restart, h, [])

/-- The record of a request: kind, sequence and mode, length, payload, CRC (R161). -/
def requestRecord (k : RequestKind) (h : LinkHeader) (payload : List Byte) : List Byte :=
  withCrc ([k.code, h.seq ++ h.mode, BitVec.ofNat 8 k.payload] ++ payload)

/-- The frame of a request as the host clocks it, with padding bytes of 0 (R161: their content is ignored). -/
def encodeRequest (i : Instr) : Option RxFrame :=
  match requestParts i with
  | none => none
  | some (k, h, payload) => some { bytes := requestRecord k h payload ++ List.replicate h.pad 0, extraBits := 0 }

/-- The bits the host clocks on SDI in the transaction of a request. -/
def requestBits (i : Instr) : List Bool :=
  match encodeRequest i with
  | some f => bitsOf f.bytes
  | none => []

/-- The command of a payload of a kind (section 11.3). -/
def requestOf (k : RequestKind) (h : LinkHeader) (payload : List Byte) : Option Instr :=
  match k, payload with
  | .nop, [] => some (.nop h)
  | .status, [] => some (.status h)
  | .ident, [] => some (.ident h)
  | .bodyState, [w1, w0, p1, p0, q1, q0, s1, s0, d, a1, a0, b1, b0, c1, c0, e1, e0] =>
    some (.bodyState h { w := joinBytes w1 w0, p := joinBytes p1 p0, q := joinBytes q1 q0, speed := joinBytes s1 s0,
                         direction := d,
                         floors := { fl := joinBytes a1 a0, fr := joinBytes b1 b0, rl := joinBytes c1 c0,
                                     rr := joinBytes e1 e0 } })
  | .previewEvent, [tag, track, sev, rep, d1, d0, l1, l0, a1, a0, t1, t0, s1, s0, f1, f0] =>
    some (.previewEvent h { tag := tag, track := track, severity := sev, report := rep, distance := joinBytes d1 d0,
                            length := joinBytes l1 l0, lead := joinBytes a1 a0, trail := joinBytes t1 t0,
                            cSoft := joinBytes s1 s0, cFirm := joinBytes f1 f0 })
  | .cancelEvent, [tag] => some (.cancelEvent h tag)
  | .flushPreview, [] => some (.flushPreview h)
  | .collect, [n] => some (.collect h n)
  | .cornerOptions, [s0, m0, s1, m1, s2, m2, s3, m3] =>
    some (.cornerOptions h { fl := ⟨s0, m0⟩, fr := ⟨s1, m1⟩, rl := ⟨s2, m2⟩, rr := ⟨s3, m3⟩ })
  | .readCorner, [c] => some (.readCorner h c)
  | .clearFaults, [c] => some (.clearFaults h c)
  | .goActive, [] => some (.goActive h)
  | .goStandby, [] => some (.goStandby h)
  | .enterLimp, [] => some (.enterLimp h)
  | .resume, [] => some (.resume h)
  | .calSegment, index :: flags :: data =>
    if hl : data.length = 32 then some (.calSegment h index flags ⟨data.toArray, by simpa using hl⟩) else none
  | .calRead, [index] => some (.calRead h index)
  | .calStore, [] => some (.calStore h)
  | .restart, [] => some (.restart h)
  | _, _ => none

/-- The request a valid frame carries (R163, R165); none where the frame is invalid. Bytes after the record are
padding (R161). -/
def decodeRequest (f : RxFrame) : Option Instr :=
  match frameFault f with
  | some _ => none
  | none =>
    match f.bytes with
    | kind :: second :: _ :: rest =>
      match kindOfCode kind with
      | none => none
      | some k =>
        requestOf k { seq := second.extractLsb' 4 4, mode := second.extractLsb' 0 4,
                      pad := f.bytes.length - (k.payload + 5) } (rest.take k.payload)
    | _ => none

end Sys2Proof.Machine
end

