-- ==== Sys2Proof/Machine/Image.lean ====
section
/-! DEFINITION. The calibration image: where each constant stands and what validation checks (section 11.5, R174). -/

namespace Sys2Proof.Machine

open Sys2Proof

/-! ## Constants by offset (section 11.5) -/

def calIdentifier (m : Memory) : Nat := m.word 0
def wheelbase (m : Memory) : Nat := m.word 2
/-- Half-track of the corner's axle. -/
def halfTrack (m : Memory) (c : Corner) : Nat := if c.isFront then m.word 4 else m.word 6
/-- Lever a for the front axle, lever b for the rear (section 1.3). -/
def lever (m : Memory) (c : Corner) : Nat := if c.isFront then m.word 8 else m.word 10
def travelZero (m : Memory) (c : Corner) : Nat := m.word (12 + 2 * c.index)
def travelGain (m : Memory) (c : Corner) : Nat := m.word (20 + 2 * c.index)
def filterAlpha (m : Memory) : Nat := (m.read 28).toNat
def loopGain (m : Memory) : Nat := (m.read 29).toNat
def vGate (m : Memory) : Nat := m.word 30
def edge1 (m : Memory) : Nat := m.word 32
def edge2 (m : Memory) : Nat := m.word 34
def edge3 (m : Memory) : Nat := m.word 36
/-- Limp current of the corner's axle (R113). -/
def limpCurrent (m : Memory) (c : Corner) : Nat := if c.isFront then m.word 38 else m.word 40
def overcurrentThreshold (m : Memory) : Nat := m.word 42
def retryLimit (m : Memory) : Nat := (m.read 44).toNat
def bodyTimeout (m : Memory) : Nat := (m.read 45).toNat
def retryDelay (m : Memory) : Nat := m.word 46
def limpTimeout (m : Memory) : Nat := m.word 48
/-- max_age in ms: the image holds it in 100 ms units (R60). -/
def maxAge (m : Memory) : Nat := m.word 50 * 100
/-- A constant of a mode row, by its byte offset within the row. -/
def modeWord (m : Memory) (md : Mode) (k : Nat) : Nat := m.word (52 + 14 * md.code + k)
def calCrc (m : Memory) : Nat := m.word 318

/-- One row of the mode table (section 2.2). -/
structure ModeRow where
  cMin : Nat
  cMax : Nat
  cSky : Nat
  cFallback : Nat
  rise : Nat
  fall : Nat
  preview : Bool
  deriving DecidableEq, Repr

def modeRow (m : Memory) (md : Mode) : ModeRow :=
  { cMin := modeWord m md 0, cMax := modeWord m md 2, cSky := modeWord m md 4, cFallback := modeWord m md 6,
    rise := modeWord m md 8, fall := modeWord m md 10, preview := modeWord m md 12 != 0 }

/-- Offset of the first point of a map row of the corner's axle (section 11.5). -/
def mapRowOffset (front : Bool) (band : Nat) : Nat := (if front then 108 else 204) + 24 * band

/-- R[k] of the corner's axle at a band (R106). -/
def mapPoint (m : Memory) (c : Corner) (band k : Nat) : Nat := m.word (mapRowOffset c.isFront band + 2 * k)

/-! ## Validation (R174) -/

/-- A limit of a field: a number, or the value held by an earlier field. -/
inductive Limit where
  | const (n : Nat)
  | field (offset : Nat)
  deriving DecidableEq, Repr

def Limit.value (m : Memory) : Limit → Nat
  | .const n => n
  | .field o => m.word o

/-- A field with a range: offset, whether it is two bytes long, lowest and highest value. -/
structure FieldRange where
  offset : Nat
  two : Bool
  lo : Limit
  hi : Limit
  deriving DecidableEq, Repr

def FieldRange.held (m : Memory) (f : FieldRange) : Nat := if f.two then m.word f.offset else (m.read f.offset).toNat

def FieldRange.inRange (m : Memory) (f : FieldRange) : Bool :=
  f.lo.value m ≤ f.held m && f.held m ≤ f.hi.value m

def twoByteRange (lo hi offset : Nat) : FieldRange := ⟨offset, true, .const lo, .const hi⟩
def oneByteRange (lo hi offset : Nat) : FieldRange := ⟨offset, false, .const lo, .const hi⟩

/-- Fields of offsets 2..51, in offset order. -/
def headRanges : List FieldRange :=
  [twoByteRange 2000 3600 2] ++ [4, 6].map (twoByteRange 500 900) ++ [8, 10].map (twoByteRange 600 2200)
  ++ [12, 14, 16, 18].map (twoByteRange 0 4095) ++ [20, 22, 24, 26].map (twoByteRange 1 4095)
  ++ [oneByteRange 1 16 28, oneByteRange 1 64 29, twoByteRange 20 200 30]
  ++ [32, 34, 36].map (twoByteRange 20 2000) ++ [38, 40].map (twoByteRange 0 1650)
  ++ [twoByteRange 1800 2500 42, oneByteRange 0 7 44, oneByteRange 10 100 45, twoByteRange 10 500 46,
      twoByteRange 20 500 48, twoByteRange 20 300 50]

/-- Fields of the mode row that starts at offset `o`, in offset order; c_max and c_fallback are bounded by the
fields of the same row. -/
def modeRowRanges (o : Nat) : List FieldRange :=
  [twoByteRange 0 4000 o, ⟨o + 2, true, .field o, .const 4000⟩, twoByteRange 0 4000 (o + 4),
   ⟨o + 6, true, .field o, .field (o + 2)⟩, twoByteRange 1 500 (o + 8), twoByteRange 1 500 (o + 10),
   twoByteRange 0 1 (o + 12)]

/-- Every field with a range, in offset order (section 11.5). -/
def fieldRanges : List FieldRange :=
  headRanges ++ [52, 66, 80, 94].flatMap modeRowRanges
  ++ (List.range 96).map fun k => twoByteRange 0 4000 (108 + 2 * k)

/-- Order 2: the offset of the first field out of range. -/
def rangeFailure (m : Memory) : Option Nat := (fieldRanges.find? fun f => !f.inRange m).map FieldRange.offset

/-- The points of the eight rows that follow another point of their row, in row order: front band 0..3, then rear. -/
def innerPoints : List Nat :=
  (List.range 8).flatMap fun r => (List.range 11).map fun k => 108 + 24 * r + 2 * (k + 1)

/-- Order 3: the offset of the first point not greater than the point before it. -/
def orderFailure (m : Memory) : Option Nat := innerPoints.find? fun o => m.word o ≤ m.word (o - 2)

/-- Order 4: the offset of the first edge not greater than the edge before it. -/
def edgeFailure (m : Memory) : Option Nat := [34, 36].find? fun o => m.word o ≤ m.word (o - 2)

/-- Order 1: the CRC over bytes 0..317 equals the value held (section 10 table, R162). -/
def crcHolds (m : Memory) : Bool := (crc16 (m.bytes 0 318)).toNat == calCrc m

/-- What validation finds; a failure names the segment of the first failing byte. -/
inductive Validation where
  | pass
  | crc
  | range (segment : Nat)
  | order (segment : Nat)
  | edges (segment : Nat)
  deriving DecidableEq, Repr

/-- The four checks in order; the first failure ends validation (R174). A CRC failure names segment 9. -/
def validate (m : Memory) : Validation :=
  if crcHolds m then
    match rangeFailure m with
    | some o => .range (o / 32)
    | none =>
      match orderFailure m with
      | some o => .order (o / 32)
      | none =>
        match edgeFailure m with
        | some o => .edges (o / 32)
        | none => .pass
  else .crc

/-- Validation result code and failing segment (section 11.4). -/
def Validation.code : Validation → Nat × Nat
  | .pass => (1, 0)
  | .crc => (2, 9)
  | .range n => (3, n)
  | .order n => (4, n)
  | .edges n => (5, n)

end Sys2Proof.Machine
end

