-- ==== Sys2Proof/Machine/Flags.lean ====
section
/-! DEFINITION. The live indications of the part, computed from its state: freshness (R14), fault summaries (R136),
notices and ATN (R155), the condition code (R157), and the outputs of the drive stages (R123). -/

namespace Sys2Proof.Machine

open Sys2Proof

/-- The working image is VALID. -/
def State.imageValid (s : State) : Bool := s.cal.imageState == .valid

/-- The body state is fresh: image VALID and age at most body_timeout (R14). -/
def State.bodyFresh (s : State) : Bool := s.imageValid && s.motion.age ≤ bodyTimeout s.cal.working

/-- A drive stage holds a hard fault. -/
def DriveState.isHardFault : DriveState → Bool
  | .faultOpen | .faultShort => true
  | .off | .regulating | .overloadWait => false

/-- A corner's fault summary, from its inputs and its degraded report mask (R136). -/
def summaryOf (d : Drive) (q : Acquisition) (a : Arbiter) : Bool :=
  d.state.isHardFault || (d.regLow && a.reportRegLow) || (q.sensor && a.reportSensor)

def State.faultSummary (s : State) (c : Corner) : Bool := summaryOf (s.drive.get c) (s.acq.get c) (s.arb.get c)

/-- Some corner's summary is clear in the first state and set in the second. -/
def summaryRises (before after : State) : Bool :=
  Corner.all.any fun c => !before.faultSummary c && after.faultSummary c

/-- FAULT_NEW is set where an operation made a summary go from clear to set (R137). -/
def noteFaultRise (before after : State) : State :=
  if summaryRises before after then after.setSup { after.sup with faultNew := true } else after

/-- COMPLETIONS_WAITING: set while the list holds a record (R102). -/
def State.completionsWaiting (s : State) : Bool := !s.sched.completions.isEmpty

/-- Whether any of the five notices is set (R155). -/
def State.noticePending (s : State) : Bool :=
  s.sup.linkErr || s.sup.restarted || s.sup.limpEntered || s.sup.faultNew || s.completionsWaiting

/-- ATN is pulled low while any notice is set (R155). -/
def State.atnLow (s : State) : Bool := s.noticePending

/-- The share of the next 100 µs, in per-mille, for which a high-side output is on: the duty, and 0 while DRVEN is
low (R123) or the part is held in reset (R118). -/
def State.outputDuty (s : State) (c : Corner) : Nat := if s.drven && !s.held then (s.drive.get c).duty else 0

/-- The condition code (R157, section 11.2). -/
def State.conditionCode (s : State) : Byte :=
  BitVec.ofNat 8 (s.sup.part.code + 8 * bit s.noticePending + 16 * bit s.bodyFresh + 32 * s.modes.inForce.code
    + 128 * bit s.imageValid)

/-- A stage is selected while its source is law or limp (R120). -/
def Source.selected : Source → Bool
  | .none => false
  | .law | .limp => true

end Sys2Proof.Machine
end

