-- ==== Sys2Proof/Machine/Link.lean ====
section
/-! DEFINITION. The link port: a select period clock by clock, what one transaction does around the request it carries
(R158 to R165), NOP and INVALID_FRAME. -/

namespace Sys2Proof.Machine

open Sys2Proof

/-! ## Mode selector (R22) -/

/-- The two steps the selector takes on each code handed to it. -/
def handMode (code : BitVec 4) (m : ModeSelector) : ModeSelector :=
  { inForce :=
      match modeOfCode code with
      | some md => if m.lastCode = some md then md else m.inForce
      | none => m.inForce
    lastCode := modeOfCode code }

/-! ## Replies -/

/-- A reply record without its CRC. -/
def Reply.body (r : Reply) : List Byte :=
  [r.kind.code, r.condition, BitVec.ofNat 8 r.payload.length, BitVec.setWidth 8 r.seq] ++ r.payload

/-- The reply record as it is clocked out (R166). -/
def Reply.record (r : Reply) : List Byte := withCrc r.body

/-- A reply formed in a state: its condition code is the one of that state (R157). -/
def replyIn (s : State) (h : LinkHeader) (kind : ReplyKind) (payload : List Byte) : Reply :=
  { kind := kind, condition := s.conditionCode, seq := h.seq, payload := payload }

/-- What the owner of a request hands back: the state after it and the reply it formed. -/
structure Performed where
  state : State
  reply : Reply
  deriving DecidableEq, Repr

/-- The request is performed and answered DONE (R165, R166). -/
def answerDone (h : LinkHeader) (payload : List Byte) (s : State) : Performed :=
  { state := s, reply := replyIn s h .done payload }

/-- The request is refused and changes nothing (R166). -/
def refuse (h : LinkHeader) (code : RefusalCode) (s : State) : Performed :=
  { state := s, reply := replyIn s h .refused [code.code] }

/-! ## A select period, clock by clock -/

/-- A pending reply is presented from its first byte, most significant bit first (R159). -/
def TransmitPosition.start : TransmitPosition := { byte := 0, bit := 0 }

/-- The bit presented at a transmit position: of the reply record, and of H'00 after its end (R159). -/
def presentedBit (r : Reply) (p : TransmitPosition) : Bool := (r.record.getD p.byte 0).getLsbD (7 - p.bit)

/-- The position after a falling edge of SCK (R159). -/
def TransmitPosition.next (p : TransmitPosition) : TransmitPosition :=
  if p.bit < 7 then { p with bit := p.bit + 1 } else { byte := p.byte + 1, bit := 0 }

/-- The bits received in the select period in progress. -/
def ReceiveState.bits : ReceiveState → List Bool
  | .selected bits => bits
  | .idle | .barred => []

/-- SSN falls: no bit is received yet, and the first bit of the pending reply is presented (R158, R159). -/
def fallOfSsn (s : State) : State :=
  { s with sdo := [], link := { s.link with receive := .selected [], txPos := .start } }

/-- One clock of SCK: at the rising edge the host samples the bit presented and the part appends the bit on SDI; at the
falling edge the next bit is presented (R158, R159). -/
def clockBit (s : State) (sdi : Bool) : State :=
  { s with
    sdo := s.sdo ++ [presentedBit s.link.reply s.link.txPos]
    link := { s.link with receive := .selected (s.link.receive.bits ++ [sdi]), txPos := s.link.txPos.next } }

/-- A select period from the fall of SSN through its clocks. -/
def clockIn (bits : List Bool) (s : State) : State := bits.foldl clockBit (fallOfSsn s)

/-- SSN rises: SDO is released, and the transmit position goes to the start of the reply that will be pending (R159,
R160). -/
def riseOfSsn (s : State) : State := { s with link := { s.link with receive := .idle, txPos := .start } }

/-- The first two steps for a valid frame: the silence count is set to 0 and the mode code is handed (R165). -/
def takeFrame (h : LinkHeader) (s : State) : State :=
  { s with link := { s.link with silence := 0 }, modes := handMode h.mode s.modes }

/-- An invalid frame: link-error latch and LINK_ERR set, cause recorded, LINK_ERROR becomes the pending reply (R164). -/
def rejectFrame (cause : LinkCause) (seq : BitVec 4) (s : State) : State :=
  let t : State :=
    { s with
      link := { s.link with errorLatch := true, lastCause := some cause }
      sup := { s.sup with linkErr := true } }
  t.setReply { kind := .linkError, condition := t.conditionCode, seq := seq,
               payload := [BitVec.ofNat 8 cause.code] }

/-- A whole select period of a running part: the bits clocked in, then the rise of SSN, at which the frame received is
checked and rejected or delivered (R158, R163 to R165). Without a clock edge it is no transaction. -/
def selectPeriod (bits : List Bool) (deliver : State → State) (s : State) : State :=
  let t := clockIn bits s
  if bits.isEmpty then riseOfSsn t
  else
    let f := gatherBits t.link.receive.bits
    match frameFault f with
    | some cause => rejectFrame cause (frameSeq f) (riseOfSsn t)
    | none => deliver (riseOfSsn t)

/-- A select period that a part held in reset lets pass: it receives no bit and presents none (R158). Of the period in
progress at the release no transaction is taken (section 9.1; DEDUCED, log entry 8). -/
def letPass (receive : ReceiveState) (s : State) : State :=
  { s with sdo := [], link := { s.link with receive := receive } }

/-- A whole select period on a part that may be held in reset. -/
def selectPart (bits : List Bool) (deliver : State → State) (s : State) : State :=
  if s.held then letPass .idle s else selectPeriod bits deliver s

/-- A request delivered to its owner after the silence count and the mode selector; its reply becomes the pending one
(R165). -/
def deliverRequest (h : LinkHeader) (perform : State → Performed) (s : State) : State :=
  (perform (takeFrame h s)).state.setReply (perform (takeFrame h s)).reply

/-- A request's transaction: the bits of its frame are clocked in and what the port receives is checked. A request padded
beyond 48 bytes is an OVERRUN frame and is not performed (R163). -/
def transact (i : Instr) (h : LinkHeader) (perform : State → Performed) (s : State) : Result :=
  .next (selectPart (requestBits i) (deliverRequest h perform) s)

/-! ## NOP and INVALID_FRAME -/

/-- NOP: answered DONE with no payload, changes nothing (R165). -/
def execNop (h : LinkHeader) (s : State) : Result := transact (.nop h) h (answerDone h []) s

/-- INVALID_FRAME: not performed; link-error latch, LINK_ERR and the last cause are set and LINK_ERROR is the pending
reply (R164). A frame that passes every check is no invalid frame and has no effect here (DESIGN CHOICE, log entry 1). A
select period in progress is shown as far as it has come, SSN being low: the command that ends the period gives its bits
again from the first, and a reset discards them (R158; DESIGN CHOICE, log entry 2). -/
def execInvalidFrame (f : SelectPeriod) (s : State) : Result :=
  match f with
  | .ended bits =>
    if !s.held && (frameFault (gatherBits bits)).isNone then .next s else .next (selectPart bits id s)
  | .inProgress bits => .next (if s.held then letPass .barred s else clockIn bits s)

end Sys2Proof.Machine
end

