-- ==== Sys2Proof/Machine/Acquisition.lean ====
section
/-! DEFINITION. The acquisition stages of a control period and the corner body velocity (Chapter 1). -/

namespace Sys2Proof.Machine

open Sys2Proof

/-- A good sample: 100..3995 (R2). -/
def goodSample (a : BitVec 12) : Bool := 100 ≤ a.toNat && a.toNat ≤ 3995

/-- Sensor fault counting (R3): the counts, SENSOR, and the filter unset where SENSOR clears (R5). -/
def countSample (good : Bool) (q : Acquisition) : Acquisition :=
  if good then
    let n := min 20 (q.good + 1)
    if q.sensor && n == 20 then { q with bad := 0, good := n, sensor := false, filter := none }
    else { q with bad := 0, good := n }
  else
    let n := min 3 (q.bad + 1)
    { q with good := 0, bad := n, sensor := q.sensor || n == 3 }

/-- Calibrated travel of a good sample (R4). -/
def calibrate (offset gain : Nat) (a : BitVec 12) : Int :=
  clampInt (-1500) 1500 ((((a.toNat : Int) - offset) * gain).tdiv 1024)

/-- The filter step (R6): the present F becomes the previous value. -/
def filterStep (alpha : Nat) (x : Int) (f : Filter) : Filter :=
  { value := f.value + ((16 * x - f.value) * alpha).tdiv 16, previous := f.value }

/-- v_rel of a period that updated the filter (R7). -/
def relativeVelocity (f : Filter) : Int := clampInt (-4000) 4000 (((f.value - f.previous) * 25).tdiv 4)

/-- Filter update and relative velocity, after counting and calibration (R5, R6, R7). -/
def filterStage (good valid : Bool) (alpha : Nat) (q : Acquisition) : Acquisition :=
  if !valid || q.sensor then { q with vRel := 0 }
  else if good then
    match q.filter with
    | none => { q with filter := some { value := 16 * q.x, previous := 16 * q.x }, vRel := 0 }
    | some f => { q with filter := some (filterStep alpha q.x f), vRel := relativeVelocity (filterStep alpha q.x f) }
  else
    match q.filter with
    | none => { q with vRel := 0 }
    | some _ => q

/-- The acquisition stages of a control period, in their order (R1): conversion, counting, calibration, filter,
relative velocity. -/
def acquire (m : Memory) (valid : Bool) (c : Corner) (a : BitVec 12) (q : Acquisition) : Acquisition :=
  let counted := countSample (goodSample a) { q with adc := some a }
  let calibrated :=
    if goodSample a && valid then { counted with x := calibrate (travelZero m c) (travelGain m c) a } else counted
  filterStage (goodSample a) valid (filterAlpha m) calibrated

/-- The filter is unset at the moment the image becomes VALID, and v_rel becomes 0 (R5). -/
def unsetFilter (q : Acquisition) : Acquisition := { q with filter := none, vRel := 0 }

/-- A term with the sign of the corner. -/
def signed (plus : Bool) (v : Int) : Int := if plus then v else -v

/-- v_body from a fresh body state (R18): roll is added at the left corners, pitch at the rear corners. -/
def bodyVelocity (m : Memory) (c : Corner) (b : Motion) : Int :=
  clampInt (-3000) 3000 (b.w + signed c.isLeft ((b.p * halfTrack m c).tdiv 1000)
    + signed (!c.isFront) ((b.q * lever m c).tdiv 1000))

end Sys2Proof.Machine
end

