-- ==== Sys2Proof/Machine/Power.lean ====
section
/-! DEFINITION. Supply events and the START load (R141, R142, R171). -/

namespace Sys2Proof.Machine

open Sys2Proof

/-- The receive state a reset leaves: a select period in progress ends without a transaction, its bits discarded, and the
port takes none until SSN has risen and fallen again (section 9.1, R158). -/
def ReceiveState.cut : ReceiveState → ReceiveState
  | .idle => .idle
  | .selected _ | .barred => .barred

/-- A reset of the blocks at a supply event, which can fall into a select period. -/
def supplyReset (cause : RestartCause) (s : State) : State :=
  let t := resetBlocks cause s
  { t with link := { t.link with receive := s.link.receive.cut } }

/-- VDD has risen from below 2.0 V: the part is reset with cause POWER and runs (R141). -/
def powerOn (s : State) : State := supplyReset .power { s with held := false }

/-- POWER_ON_RESET. -/
def execPowerOnReset (s : State) : Result := .next (powerOn s)

/-- VDD has fallen through 4.3 V: the part is reset and held (R141). The cause recorded is BROWNOUT until VDD is seen
to have fallen below 2.0 V, which POWER_ON_RESET reports. A part already held is not reset again. -/
def brownout (s : State) : State := if s.held then s else supplyReset .brownout { s with held := true }

/-- BROWNOUT_RESET. -/
def execBrownoutReset (s : State) : Result := .next (brownout s)

/-- VDD is above 4.3 V again without having fallen below 2.0 V: the held part is released with cause BROWNOUT (R141). -/
def release (s : State) : State :=
  if s.held then
    { s with
      held := false
      sup := { s.sup with restartCause := .brownout }
      link := { s.link with receive := s.link.receive.cut, reply := Reply.restarted .brownout } }
  else s

/-- VDD_RECOVERY. -/
def execVddRecovery (s : State) : Result := .next (release s)

/-- The state a START load decides (R171): without the completion mark INVALID, with it by validation. -/
def loadedState (nv : Memory) (mark : Bool) : ImageState :=
  if mark && validate nv == .pass then .valid else .invalid

/-- The image becomes VALID or not; on VALID every corner's filter is unset at that moment (R5, R170). -/
def setImageState (st : ImageState) (s : State) : State :=
  { s with
    cal := { s.cal with imageState := st }
    acq := if st = .valid then s.acq.map unsetFilter else s.acq }

/-- The end of the START load: the working image holds the bytes read, its state is decided, and the part enters
STANDBY (R142, R171). -/
def loadEnd (s : State) : State :=
  let t := setImageState (loadedState s.cal.nv s.cal.nvMark) s
  { t with
    cal := { t.cal with working := s.cal.nv }
    sup := { t.sup with part := .standby } }

/-- The load runs only in START (R142). -/
def loading (s : State) : Bool := s.sup.part == .start

/-- START_LOAD_END. -/
def execStartLoadEnd (s : State) : Result := whenOccurs loading loadEnd s

end Sys2Proof.Machine
end

