-- ==== Sys2Proof/Machine/CalRequests.lean ====
section
/-! DEFINITION. The calibration store: download (R172 to R174), reading (R175), store (R176, R177) and identification
(R178). -/

namespace Sys2Proof.Machine

open Sys2Proof

/-! ## CAL_SEGMENT -/

/-- Number of segments, and bytes of a segment. -/
def segmentCount : Nat := 10
def segmentBytes : Nat := 32

/-- What the sequence rule does with a segment of index 0..9 (R173). -/
inductive SegmentRuling where
  | begin | accept | abort | refuse
  deriving DecidableEq, Repr

/-- The sequence rule (R173). -/
def segmentRuling (k : CalStore) (index : Nat) (start finish : Bool) : SegmentRuling :=
  if start then (if index = 0 ∧ finish = false then .begin else .abort)
  else
    match k.download with
    | .idle | .aborted => .refuse
    | .receiving => if index = k.expected ∧ (finish = true ↔ index = 9) then .accept else .abort

/-- An accepted segment replaces its 32 bytes of the working image (R172). -/
def writeSegment (index : Nat) (data : Vector Byte 32) (k : CalStore) : CalStore :=
  { k with working := k.working.writeBytes (segmentBytes * index) data.toList }

/-- CAL_SEGMENT's DONE payload (R172, R181, section 11.4). -/
def segmentReply (index : Byte) (aborted : Bool) (k : CalStore) (expected accepted : Nat) (result : Nat × Nat) :
    List Byte :=
  [index, bitsByte [aborted], BitVec.ofNat 8 k.download.code, BitVec.ofNat 8 expected, BitVec.ofNat 8 accepted,
   BitVec.ofNat 8 k.imageState.code, BitVec.ofNat 8 result.1, BitVec.ofNat 8 result.2]

/-- A download begins (R173): segment 0 written, download and image RECEIVING, expected 1, count 1. -/
def beginDownload (data : Vector Byte 32) (s : State) : State :=
  s.setCal { writeSegment 0 data s.cal with
    imageState := .receiving, download := .receiving, expected := 1, accepted := 1 }

/-- An accepted segment 0..8 without START (R173). -/
def acceptSegment (index : Nat) (data : Vector Byte 32) (s : State) : State :=
  s.setCal { writeSegment index data s.cal with expected := s.cal.expected + 1, accepted := s.cal.accepted + 1 }

/-- The accepted END segment: written, then the whole image is validated and becomes VALID or INVALID (R174). -/
def finishDownload (index : Nat) (data : Vector Byte 32) (s : State) : State :=
  let k := writeSegment index data s.cal
  setImageState (if validate k.working = .pass then .valid else .invalid)
    (s.setCal { k with download := .idle, expected := 0, accepted := k.accepted + 1 })

/-- The validation result of the END segment, read from the image it left. -/
def finishResult (s : State) : Validation := validate s.cal.working

/-- An aborted download: image INVALID, expected index and accepted count 0 (R173). -/
def abortDownload (s : State) : State :=
  s.setCal { s.cal with imageState := .invalid, download := .aborted, expected := 0, accepted := 0 }

/-- A segment of index 0..9 in STANDBY with the store IDLE (R172 to R174). -/
def takeSegment (h : LinkHeader) (index flags : Byte) (data : Vector Byte 32) (s : State) : Performed :=
  match segmentRuling s.cal index.toNat (flags.getLsbD 0) (flags.getLsbD 1) with
  | .begin =>
    let t := beginDownload data s
    answerDone h (segmentReply index false t.cal t.cal.expected t.cal.accepted (0, 0)) t
  | .accept =>
    if index.toNat = 9 then
      let t := finishDownload 9 data s
      answerDone h (segmentReply index false t.cal t.cal.expected t.cal.accepted (finishResult t).code) t
    else
      let t := acceptSegment index.toNat data s
      answerDone h (segmentReply index false t.cal t.cal.expected t.cal.accepted (0, 0)) t
  | .abort =>
    let t := abortDownload s
    answerDone h (segmentReply index true t.cal s.cal.expected s.cal.accepted (0, 0)) t
  | .refuse => refuse h .sequence s

/-- CAL_SEGMENT (R172). -/
def performCalSegment (h : LinkHeader) (index flags : Byte) (data : Vector Byte 32) (s : State) : Performed :=
  match s.sup.part with
  | .start => refuse h .busy s
  | .active | .stopping => refuse h .wrongState s
  | .limp => refuse h .limpActive s
  | .standby =>
    if s.cal.store = .busy then refuse h .busy s
    else if segmentCount ≤ index.toNat then refuse h .badValue s
    else takeSegment h index flags data s

def execCalSegment (h : LinkHeader) (index flags : Byte) (data : Vector Byte 32) (s : State) : Result :=
  transact (.calSegment h index flags data) h (performCalSegment h index flags data) s

/-! ## CAL_READ -/

/-- CAL_READ (R175): the segment of the working image as it stands. -/
def performCalRead (h : LinkHeader) (index : Byte) (s : State) : Performed :=
  if s.sup.part = .start then refuse h .busy s
  else if segmentCount ≤ index.toNat then refuse h .badValue s
  else
    answerDone h
      ([index, BitVec.ofNat 8 s.cal.imageState.code]
        ++ s.cal.working.bytes (segmentBytes * index.toNat) segmentBytes) s

def execCalRead (h : LinkHeader) (index : Byte) (s : State) : Result := transact (.calRead h index) h (performCalRead h index) s

/-! ## CAL_STORE and its end -/

/-- A store begins (R176, R177): BUSY, last result NONE, the completion mark cleared as its first step. -/
def beginStore (s : State) : State := s.setCal { s.cal with store := .busy, lastResult := .none, nvMark := false }

/-- CAL_STORE (R176). -/
def performCalStore (h : LinkHeader) (s : State) : Performed :=
  match s.sup.part with
  | .start => refuse h .busy s
  | .active | .stopping => refuse h .wrongState s
  | .limp => refuse h .limpActive s
  | .standby =>
    if s.cal.store = .busy then refuse h .busy s
    else if s.imageValid = false then refuse h .calInvalid s
    else answerDone h [] (beginStore s)

def execCalStore (h : LinkHeader) (s : State) : Result := transact (.calStore h) h (performCalStore h) s

/-- Every byte of the two images agrees (R177). -/
def imagesAgree (a b : Memory) : Bool := (List.range imageBytes).all fun o => a.read o == b.read o

/-- What the nonvolatile memory holds after a write of the working image: the bytes written, but for the cells that did
not take their byte, given by the command (R177: "When any byte differs"). -/
def writtenImage (working : Memory) (badCells : List (Nat × Byte)) : Memory :=
  working.writeCells (badCells.filter fun cell => cell.1 < imageBytes)

/-- The end of a store: written, read back and compared; mark and OK where all bytes agree, else FAILED (R177). -/
def storeEnd (badCells : List (Nat × Byte)) (s : State) : State :=
  let nv := writtenImage s.cal.working badCells
  let ok := imagesAgree nv s.cal.working
  s.setCal { s.cal with
    store := .idle, lastResult := if ok then .ok else .failed, nv := nv, nvMark := ok }

/-- A store runs. -/
def storing (s : State) : Bool := s.cal.store == .busy

/-- STORE_END (R177). -/
def execStoreEnd (badCells : List (Nat × Byte)) (s : State) : Result := whenOccurs storing (storeEnd badCells) s

/-! ## IDENT -/

/-- Part code and hardware revision code (section 11.4). -/
def partCode : Nat := 0x0D54
def revisionCode : Byte := 0x02

/-- IDENT (R178). -/
def performIdent (h : LinkHeader) (s : State) : Performed :=
  answerDone h
    (natBytes partCode ++ [revisionCode] ++ natBytes (calIdentifier s.cal.working) ++ natBytes (calCrc s.cal.working)
      ++ [BitVec.ofNat 8 s.cal.imageState.code]) s

def execIdent (h : LinkHeader) (s : State) : Result := transact (.ident h) h (performIdent h) s

end Sys2Proof.Machine
end

