-- ==== Sys2Proof/Machine/ValveMap.lean ====
section
/-! DEFINITION. Band selection and the two readings of the valve map (Chapter 6). A row is given as the function of
its points, `row k = R[k]`, k in 0..11. -/

namespace Sys2Proof.Machine

open Sys2Proof

/-- The band of a relative velocity: a value on an edge belongs to the band above it (R105). -/
def selectBand (e1 e2 e3 : Nat) (vRel : Int) : Nat :=
  if vRel.natAbs < e1 then 0 else if vRel.natAbs < e2 then 1 else if vRel.natAbs < e3 then 2 else 3

/-- The segment k in 0..10 with R[k] ≤ c < R[k+1] (R107). -/
def mapSegment (row : Nat → Nat) (c : Nat) : Option Nat :=
  (List.range 11).find? fun k => row k ≤ c && c < row (k + 1)

/-- Inverse map: coefficient to current (R107). -/
def inverseMap (row : Nat → Nat) (c : Nat) : Nat :=
  if c ≤ row 0 then 0
  else if row 11 ≤ c then 1650
  else
    match mapSegment row c with
    | some k => 150 * k + ((c - row k) * 150) / (row (k + 1) - row k)
    | none => 1650

/-- Forward map: current to coefficient (R110). -/
def forwardMap (row : Nat → Nat) (i : Nat) : Nat :=
  let k := min (i / 150) 10
  row k + ((i - 150 * k) * (row (k + 1) - row k)) / 150

/-- The applied current of a corner in LIMP: the limp current of its axle while its stage is REGULATING, else 0
(R36, R111). -/
def appliedCurrent (m : Memory) (c : Corner) (d : Drive) : Nat :=
  if d.state = .regulating then limpCurrent m c else 0

/-- The coefficient the damper of a corner presents in LIMP at a band (R36, R37, R111). -/
def limpCoefficient (m : Memory) (c : Corner) (band : Nat) (d : Drive) : Nat :=
  forwardMap (mapPoint m c band) (appliedCurrent m c d)

end Sys2Proof.Machine
end

