-- ==== Sys2Proof/Machine/DriveStage.lean ====
section
/-! DEFINITION. One valve drive stage: its entries and departures (R121, R122) and its drive period (R119, R124 to
R131), as functions of the stage alone. -/

namespace Sys2Proof.Machine

open Sys2Proof

/-! ## Entries and departures -/

/-- Entry to REGULATING: D and the counts 0, status NONE; the retry count and REG_LOW are kept (R121, R130). -/
def enterRegulating (d : Drive) : Drive :=
  { d with state := .regulating, duty := 0, status := .none, lowRun := 0, inRun := 0, openCount := 0, wait := 0,
           cleanRun := 0 }

/-- A selection, or a rise of DRVEN, with the stage selected and DRVEN high: a stage in OFF enters REGULATING (R121). -/
def driveSelected (d : Drive) : Drive := if d.state = .off then enterRegulating d else d

/-- A deselection or a fall of DRVEN: REGULATING and OVERLOAD_WAIT go to OFF, the counts and the retry count become
0, REG_LOW is kept; the other states are not changed (R122). -/
def driveDropped (d : Drive) : Drive :=
  if d.state = .regulating ∨ d.state = .overloadWait then
    { d with state := .off, duty := 0, status := .none, lowRun := 0, inRun := 0, openCount := 0, retry := 0, wait := 0,
             cleanRun := 0 }
  else d

/-! ## The drive period in REGULATING -/

/-- An overcurrent period (R129). -/
def overcurrentPeriod (nRetry : Nat) (d : Drive) : Drive :=
  let cut := { d with duty := 0, status := .none, lowRun := 0, inRun := 0, openCount := 0, cleanRun := 0 }
  if d.retry + 1 ≤ nRetry then { cut with state := .overloadWait, retry := d.retry + 1, wait := 0 }
  else { cut with state := .faultShort, retry := 0 }

/-- The current error e, in mA (R125). -/
def currentError (d : Drive) : Int := (d.target : Int) - d.iMeas

/-- The loop update (R125). -/
def loopDuty (kI : Nat) (d : Drive) : Nat := (clampInt 0 950 (d.duty + (currentError d * kI).tdiv 64)).toNat

/-- Regulation status from e and the new D (R126). -/
def regulationStatus (e : Int) (duty : Nat) : RegStatus :=
  if e.natAbs ≤ 20 then .inBand
  else if duty = 950 ∧ e > 20 then .low
  else if duty = 0 ∧ e < -20 then .high
  else .tracking

/-- The run counts and REG_LOW after the status of the period (R127). -/
def countStatus (d : Drive) : Drive :=
  match d.status with
  | .low =>
    let n := min 100 (d.lowRun + 1)
    { d with lowRun := n, inRun := 0, regLow := d.regLow || n == 100 }
  | .inBand =>
    let n := min 100 (d.inRun + 1)
    { d with inRun := n, lowRun := 0, regLow := d.regLow && n != 100 }
  | .high | .tracking | .none => { d with lowRun := 0, inRun := 0 }

/-- The open-coil test of a period (R128). -/
def openTestMet (d : Drive) : Bool := d.duty == 950 && 200 ≤ d.target && d.iMeas < 30

/-- The period ends in FAULT_OPEN (R128). -/
def latchOpen (d : Drive) : Drive :=
  { d with state := .faultOpen, duty := 0, status := .none, lowRun := 0, inRun := 0, openCount := 0, retry := 0,
           cleanRun := 0 }

/-- The clean-run count, and the retry count returned to 0 where it reaches 10000 (R131). -/
def countClean (d : Drive) : Drive :=
  let n := min 10000 (d.cleanRun + 1)
  { d with cleanRun := n, retry := if n = 10000 then 0 else d.retry }

/-- Parts 4 and 5 of a REGULATING period: open-coil test, then clean-run count (R128, R131). -/
def openAndClean (d : Drive) : Drive :=
  if openTestMet d then
    if d.openCount + 1 ≥ 50 then latchOpen d else countClean { d with openCount := d.openCount + 1 }
  else countClean { d with openCount := 0 }

/-- A REGULATING period after i_meas and i_tgt were read (R124): overcurrent test, loop, status, REG_LOW counting,
open-coil test, clean-run count. -/
def regulate (m : Memory) (d : Drive) : Drive :=
  if d.iMeas > overcurrentThreshold m then overcurrentPeriod (retryLimit m) d
  else
    let duty := loopDuty (loopGain m) d
    openAndClean (countStatus { d with duty := duty, status := regulationStatus (currentError d) duty })

/-- What a drive period does (R119): i_meas (at most 4095) and i_tgt are read; then the drive state at the start
decides. -/
def periodOutcome (m : Memory) (current : Nat) (before : Drive) : Drive :=
  let d := { before with iMeas := min 4095 current, target := before.latch }
  match d.state with
  | .regulating => regulate m d
  | .overloadWait =>
    if d.wait + 1 ≥ 10 * retryDelay m then regulate m (enterRegulating d)
    else { d with wait := d.wait + 1, duty := 0, status := .none }
  | .off | .faultOpen | .faultShort => { d with duty := 0, status := .none }

/-- D and the status at the end of a drive period become those of the most recent period (R139). -/
def endPeriod (d : Drive) : Drive := { d with shownDuty := d.duty, shownStatus := d.status }

/-- One drive period (R119). -/
def stagePeriod (m : Memory) (current : Nat) (before : Drive) : Drive := endPeriod (periodOutcome m current before)

/-- The stage entered a fault state in going from the first to the second (R132). -/
def faultEntered (before after : Drive) : Bool := !before.state.isHardFault && after.state.isHardFault

/-! ## CLEAR_FAULTS at one stage (R135) -/

/-- A named stage: a fault state goes to OFF and, selected with DRVEN high, on to REGULATING; REG_LOW and the two run
counts are cleared in every case. -/
def clearStage (selected drven : Bool) (d : Drive) : Drive :=
  let cleared := { d with regLow := false, lowRun := 0, inRun := 0 }
  if d.state.isHardFault then
    if selected && drven then enterRegulating { cleared with state := .off } else { cleared with state := .off }
  else cleared

end Sys2Proof.Machine
end

