-- ==== Sys2Proof/Machine/Law.lean ====
section
/-! DEFINITION. The law stages of a control period, from c_law to the target latch (Chapters 2 and 6), as functions of
what the period read at its start. -/

namespace Sys2Proof.Machine

open Sys2Proof

/-! ## Window phase and presentation -/

/-- Phase of a window (R53). -/
def windowPhase (w : Window) : Phase :=
  if w.pos > w.lead then .before
  else if w.pos > 0 then .approach
  else if w.pos > -(w.length : Int) then .contact
  else if w.pos > -((w.length : Int) + w.trail) then .rebound
  else .passed

/-- c_a: the presentation of the ACTIVE window applied to c_law (R30, R85). An ACTIVE window is never BEFORE or
PASSED (R53); in those two nothing is presented. -/
def presentation (active : Option HeldWindow) (cLaw : Nat) : Nat :=
  match active with
  | none => cLaw
  | some h =>
    match windowPhase h.win with
    | .approach | .contact => min cLaw h.win.cSoft
    | .rebound => max cLaw h.win.cFirm
    | .before | .passed => cLaw

/-! ## The stages -/

/-- c_law (R27, R28, R29): fallback where a velocity cannot be trusted, c_min where the signs do not agree, else the
skyhook term. -/
def lawCoefficient (row : ModeRow) (gate : Nat) (stale sensor : Bool) (vBody vRel : Int) : Nat :=
  if stale || sensor then row.cFallback
  else if vBody * vRel ≤ 0 then row.cMin
  else min 4000 ((row.cSky * vBody.natAbs) / max vRel.natAbs gate)

/-- c_c (R32): 0 in STOPPING, else within c_min..c_max, the lower limit first. -/
def modeLimited (row : ModeRow) (part : PartState) (cB : Nat) : Nat :=
  if part = .stopping then 0 else min (max cB row.cMin) row.cMax

/-- The rate limiter (R33). -/
def rateLimited (row : ModeRow) (cC cPrev : Nat) : Nat :=
  if cC > cPrev then min cC (cPrev + row.rise) else max cC (cPrev - row.fall)

/-- What a control period reads at its start (R26, R85, R114). -/
structure PeriodInputs where
  part : PartState
  valid : Bool
  mem : Memory
  row : ModeRow
  stale : Bool
  motion : Motion
  active : Option HeldWindow
  drive : Drive
  source : Source

/-- c_out by part state (R33, R34, R36). -/
def outputCoefficient (i : PeriodInputs) (c : Corner) (band cC cPrev : Nat) : Nat :=
  match i.part with
  | .start | .standby => 0
  | .active | .stopping => rateLimited i.row cC cPrev
  | .limp => limpCoefficient i.mem c band i.drive

/-- i_tgt by part state (R108): the limp current in LIMP, else the inverse map of c_out. -/
def targetCurrent (i : PeriodInputs) (c : Corner) (band cOut : Nat) : Nat :=
  if i.part = .limp then limpCurrent i.mem c else inverseMap (mapPoint i.mem c band) cOut

/-- Results of a period with the image not VALID (R25, R104); v_body is 0 and the period STALE (R19). -/
def blankResults : LawResults :=
  { vBody := 0, stale := true, cLaw := 0, cA := 0, cB := 0, cC := 0, cOut := 0, cPrev := 0, band := 0, iTgt := 0 }

/-- The law stages, band selection and map stage of one corner's period, after acquisition (R18 to R36, R105 to
R108). `q` is the acquisition state of this period, `l` the results before it. -/
def lawStages (i : PeriodInputs) (c : Corner) (q : Acquisition) (l : LawResults) : LawResults :=
  if i.valid then
    let vBody := if i.stale then 0 else bodyVelocity i.mem c i.motion
    let cLaw := lawCoefficient i.row (vGate i.mem) i.stale q.sensor vBody q.vRel
    let cA := presentation i.active cLaw
    let cB := if i.stale then cA else max cA (i.motion.floors.get c)
    let cC := modeLimited i.row i.part cB
    let band := selectBand (edge1 i.mem) (edge2 i.mem) (edge3 i.mem) q.vRel
    let cOut := outputCoefficient i c band cC l.cPrev
    { vBody := vBody, stale := i.stale, cLaw := cLaw, cA := cA, cB := cB, cC := cC, cOut := cOut, cPrev := cOut,
      band := band, iTgt := targetCurrent i c band cOut }
  else blankResults

/-- What the corner writes into its target latch at the end of the period (R114). -/
def latchValue (i : PeriodInputs) (c : Corner) (iTgt : Nat) : Nat :=
  match i.source with
  | .law => iTgt
  | .limp => limpCurrent i.mem c
  | .none => 0

/-- The one reading at the start of the period (R26). -/
def periodInputs (s : State) (c : Corner) : PeriodInputs :=
  { part := s.sup.part, valid := s.imageValid, mem := s.cal.working, row := modeRow s.cal.working s.modes.inForce,
    stale := !s.bodyFresh, motion := s.motion, active := (s.arb.get c).active, drive := s.drive.get c,
    source := s.sup.source.get c }

/-- The corner's results of one period: acquisition, law and latch of this corner, and nothing else. -/
def cornerPeriod (c : Corner) (a : BitVec 12) (s : State) : State :=
  let q := acquire s.cal.working s.imageValid c a (s.acq.get c)
  let l := lawStages (periodInputs s c) c q (s.law.get c)
  { s with
    acq := s.acq.set c q
    law := s.law.set c l
    drive := s.drive.set c { s.drive.get c with latch := latchValue (periodInputs s c) c l.iTgt } }

end Sys2Proof.Machine
end

