-- ==== Sys2Proof/Machine/Arbitration.lean ====
section
/-! DEFINITION. One corner's arbiter: opens, closes, selection, removals and clearing (Chapter 4), as functions of the
arbiter alone. A retirement leaves the arbiter with its window and outcome, in the order in which it was made (R73). -/

namespace Sys2Proof.Machine

open Sys2Proof

/-- A retirement returned to the scheduler (R57, R73). -/
structure Retirement where
  win : Window
  outcome : WindowOutcome
  deriving DecidableEq, Repr

/-- Depth of the shaping stack (R76). -/
def stackLimit : Nat := 3

/-! ## Admission order (R50) -/

/-- How far a number lies behind a count, modulo 2^32 (R50, R77). -/
def behind (count number : Count) : Nat := (count - number).toNat

/-- The first window was admitted before the second: its number lies further behind the number the next admission
takes (R50). -/
def admittedBefore (next : Count) (a b : Window) : Bool := behind next b.admissionNo < behind next a.admissionNo

/-- Insertion into an ordered list, before the first element the new one is not after. -/
def insertBy {α : Type} (lt : α → α → Bool) (x : α) : List α → List α
  | [] => [x]
  | y :: rest => if lt y x then y :: insertBy lt x rest else x :: y :: rest

/-- A list put in the order of `lt`; elements the order does not tell apart keep their order. -/
def sortBy {α : Type} (lt : α → α → Bool) : List α → List α
  | [] => []
  | x :: rest => insertBy lt x (sortBy lt rest)

/-! ## Opens (R74 to R77) -/

/-- The window takes the open-order count as its number, and the count goes up by 1 (R75). -/
def numbered (w : Window) (a : Arbiter) : HeldWindow := { win := w, order := a.openCount }

/-- Preemption: the bottom of a full stack is retired OVERRIDDEN, the ACTIVE window is pushed, the new window is
ACTIVE (R76). -/
def preempt (w : Window) (current : HeldWindow) (a : Arbiter) : Arbiter × List Retirement :=
  let full := stackLimit ≤ a.stack.length
  ({ a with
     active := some (numbered w a)
     stack := (if full then a.stack.drop 1 else a.stack) ++ [current]
     openCount := a.openCount + 1 },
   if full then (a.stack.take 1).map fun h => { win := h.win, outcome := .overridden } else [])

/-- The window joins the waiting set at its end (R77). -/
def await (w : Window) (a : Arbiter) : Arbiter :=
  { a with waiting := a.waiting ++ [numbered w a], openCount := a.openCount + 1 }

/-- A window reported open (R74 to R77). `enabled` is the preview-enable of the mode in force. -/
def openWindow (enabled : Bool) (w : Window) (a : Arbiter) : Arbiter × List Retirement :=
  if w.severity < a.minSeverity ∨ enabled = false then (a, [{ win := w, outcome := .skipped }])
  else
    match a.active with
    | none => ({ a with active := some (numbered w a), openCount := a.openCount + 1 }, [])
    | some current => if w.severity > current.win.severity then preempt w current a else (await w a, [])

/-- The opens of a batch, one after the other (R56, R73). -/
def openAll (enabled : Bool) : List Window → Arbiter → Arbiter × List Retirement
  | [], a => (a, [])
  | w :: rest, a =>
    let first := openWindow enabled w a
    let others := openAll enabled rest first.1
    (others.1, first.2 ++ others.2)

/-! ## Selection (R81) -/

/-- The highest severity among windows; 0 where there is none (severities are 1..7). -/
def maxSeverity (l : List HeldWindow) : Nat := l.foldr (fun h n => max h.win.severity n) 0

/-- The first window of a severity taken out of a list, with the list that remains. -/
def takeSeverity (sev : Nat) : List HeldWindow → Option (HeldWindow × List HeldWindow)
  | [] => none
  | h :: rest =>
    if h.win.severity = sev then some (h, rest)
    else (takeSeverity sev rest).map fun r => (r.1, h :: r.2)

/-- The stack top wins with the highest severity, alone or tied; else the first of the most severe waiting windows
becomes ACTIVE and the stack is unchanged; with no candidate the corner is idle (R81). The mark is cleared (R83). -/
def select (a : Arbiter) : Arbiter :=
  match a.stack.getLast? with
  | some top =>
    if maxSeverity a.waiting ≤ top.win.severity then
      { a with active := some top, stack := a.stack.dropLast, selectionDue := false }
    else
      match takeSeverity (maxSeverity a.waiting) a.waiting with
      | some r => { a with active := some r.1, waiting := r.2, selectionDue := false }
      | none => { a with active := none, selectionDue := false }
  | none =>
    match takeSeverity (maxSeverity a.waiting) a.waiting with
    | some r => { a with active := some r.1, waiting := r.2, selectionDue := false }
    | none => { a with active := none, selectionDue := false }

/-! ## Closes (R55, R78 to R80, R83) -/

/-- A window has passed its wheel and its trail (R53). -/
def windowPassed (w : Window) : Bool := w.pos ≤ -((w.length : Int) + w.trail)

/-- The closes of WAITING and STACKED windows of a batch, in admission order, each OVERRIDDEN (R55, R79, R80). -/
def heldCloses (next : Count) (a : Arbiter) : List Retirement :=
  (sortBy (admittedBefore next) (((a.stack ++ a.waiting).filter fun h => windowPassed h.win).map HeldWindow.win)).map
    fun w => { win := w, outcome := .overridden }

/-- Stage 4 at one corner: the passed WAITING and STACKED windows are closed first, then the ACTIVE window if it has
passed, SERVED, with selection at once; a selection due from stage 2 is made here (R55, R78, R83). -/
def closePassed (next : Count) (a : Arbiter) : Arbiter × List Retirement :=
  let kept : Arbiter :=
    { a with
      stack := a.stack.filter fun h => !windowPassed h.win
      waiting := a.waiting.filter fun h => !windowPassed h.win }
  match a.active with
  | some h =>
    if windowPassed h.win then
      (select { kept with active := none }, heldCloses next a ++ [{ win := h.win, outcome := .served }])
    else if a.selectionDue then ({ kept with selectionDue := false }, heldCloses next a)
    else (kept, heldCloses next a)
  | none => if a.selectionDue then (select kept, heldCloses next a) else (kept, heldCloses next a)

/-! ## Removals (R82, R83) -/

/-- The windows an arbiter holds: ACTIVE, stacked, waiting. -/
def Arbiter.held (a : Arbiter) : List Window := a.active.toList.map HeldWindow.win ++ (a.stack ++ a.waiting).map HeldWindow.win

/-- The windows that satisfy `p` are taken out of their places. An ACTIVE window so removed leaves a selection: at
once for a cancellation (R82), or by the selection-due mark at an expiry (R83). -/
def removeWindows (p : Window → Bool) (defer : Bool) (a : Arbiter) : Arbiter :=
  let kept : Arbiter :=
    { a with
      stack := a.stack.filter fun h => !p h.win
      waiting := a.waiting.filter fun h => !p h.win }
  match a.active with
  | some h =>
    if p h.win then
      if defer then { kept with active := none, selectionDue := true } else select { kept with active := none }
    else kept
  | none => kept

/-! ## Clearing and moving -/

/-- The arbitration cleared at a flush; the corner options stay (R70, R72). -/
def clearArbitration (a : Arbiter) : Arbiter :=
  { a with active := none, stack := [], waiting := [], openCount := 0, selectionDue := false }

/-- A change made to every window an arbiter holds, in its place: the step of stage 1 (R52) and the change of parent
at an EARLY posting (R64, R87). -/
def mapHeld (f : Window → Window) (a : Arbiter) : Arbiter :=
  { a with
    active := a.active.map fun h => { h with win := f h.win }
    stack := a.stack.map fun h => { h with win := f h.win }
    waiting := a.waiting.map fun h => { h with win := f h.win } }

end Sys2Proof.Machine
end

