-- ==== Sys2Proof/Machine/Completion.lean ====
section
/-! DEFINITION. Completion records and their postings, the completion list and COLLECT (Chapter 5), and the accounts
that retirements leave in the event table (R57). -/

namespace Sys2Proof.Machine

open Sys2Proof

/-! ## Accounts (R57) -/

def OutcomeCounts.add (k : OutcomeCounts) : WindowOutcome → OutcomeCounts
  | .served => { k with served := k.served + 1 }
  | .overridden => { k with overridden := k.overridden + 1 }
  | .skipped => { k with skipped := k.skipped + 1 }
  | .cancelled | .expired => k

/-- A retirement counted on the axle of its window. -/
def Event.count (e : Event) (c : Corner) (o : WindowOutcome) : Event :=
  if c.isFront then { e with front := e.front.add o } else { e with rear := e.rear.add o }

/-- One retirement accounted: an orphan lowers the orphan count, a tagged window raises its event's count (R57). -/
def accountRetirement (sch : Scheduler) (r : Retirement) : Scheduler :=
  match r.win.parent with
  | .orphan => { sch with orphanCount := sch.orphanCount - 1 }
  | .event tag =>
    { sch with events := sch.events.map fun e => if e.tag = tag then e.count r.win.corner r.outcome else e }

def accountAll (rs : List Retirement) (sch : Scheduler) : Scheduler := rs.foldl accountRetirement sch

/-! ## Postings (R93 to R96) -/

/-- Why an event posts (R96). -/
inductive EndCause where
  | normal | cancelled | flushed | expired
  deriving DecidableEq, Repr

/-- Counts of both axles added (R94). -/
def OutcomeCounts.plus (a b : OutcomeCounts) : OutcomeCounts :=
  { served := a.served + b.served, overridden := a.overridden + b.overridden, skipped := a.skipped + b.skipped }

/-- The counts a record covers: front alone for EARLY, both axles for LATE and FORCED_LATE (R94). -/
def coveredCounts (e : Event) : OutcomeCounts :=
  match e.report with
  | .early => e.front
  | .late | .forcedLate => e.front.plus e.rear

/-- Outcome of a record (R96). -/
def endOutcome (cause : EndCause) (k : OutcomeCounts) : EventOutcome :=
  match cause with
  | .cancelled => .cancelled
  | .flushed => .flushed
  | .expired => .expired
  | .normal => if k.served = 0 then .notApplied else if k.overridden = 0 then .applied else .partly

/-- Age of an event or a window at a count (R60). -/
def ageAt (now admitted : Count) : Nat := (now - admitted).toNat

/-- The record of an event posted at a count (R93, R95). -/
def recordOf (cause : EndCause) (now : Count) (e : Event) : Completion :=
  { tag := e.tag, outcome := endOutcome cause (coveredCounts e), report := e.report,
    served := (coveredCounts e).served, overridden := (coveredCounts e).overridden,
    skipped := (coveredCounts e).skipped, age := min 65535 (ageAt now e.admissionMs) }

/-- A posting: the event leaves the table and its record joins the list at its tail (R63, R97). -/
def post (cause : EndCause) (e : Event) (sch : Scheduler) : Scheduler :=
  { sch with
    events := sch.events.filter fun x => x.tag != e.tag
    completions := sch.completions ++ [recordOf cause sch.msCount e] }

/-! ## Tags (R45) -/

def Scheduler.tagInTable (sch : Scheduler) (tag : Nat) : Bool := sch.events.any fun e => e.tag == tag

def Scheduler.tagInList (sch : Scheduler) (tag : Nat) : Bool := sch.completions.any fun r => r.tag == tag

def Scheduler.tagHeld (sch : Scheduler) (tag : Nat) : Bool := sch.tagInTable tag || sch.tagInList tag

/-! ## COLLECT (R99, R100) -/

/-- A completion record as sent (section 11.4). -/
def Completion.bytes (r : Completion) : List Byte :=
  [BitVec.ofNat 8 r.tag, BitVec.ofNat 8 r.outcome.code, BitVec.ofNat 8 r.report.code, BitVec.ofNat 8 r.served,
   BitVec.ofNat 8 r.overridden, BitVec.ofNat 8 r.skipped] ++ natBytes r.age

/-- The four record slots of a COLLECT reply, zeros after the last record returned (R99, R180). -/
def slotBytes (rs : List Completion) : List Byte :=
  (rs.flatMap Completion.bytes ++ List.replicate 32 0).take 32

/-- The count taken (R99). -/
def collectCount (count : Byte) : Nat := clampNat 1 4 count.toNat

/-- The oldest records are removed, up to the taken count, and returned (R99); their tags are free from here (R100). -/
def performCollect (h : LinkHeader) (count : Byte) (s : State) : Performed :=
  if s.sup.part = .start then refuse h .busy s
  else
    let taken := s.sched.completions.take (collectCount count)
    let left := s.sched.completions.drop (collectCount count)
    answerDone h
      ([BitVec.ofNat 8 taken.length, BitVec.ofNat 8 left.length, bitsByte [collectCount count != count.toNat]]
        ++ slotBytes taken)
      (s.setSched { s.sched with completions := left })

def execCollect (h : LinkHeader) (count : Byte) (s : State) : Result := transact (.collect h count) h (performCollect h count) s

end Sys2Proof.Machine
end

