-- ==== Sys2Proof/Machine/Preview.lean ====
section
/-! DEFINITION. The preview scheduler: admission, travel step, expiry, report point and orphans, cancel, flush
(Chapter 3). -/

namespace Sys2Proof.Machine

open Sys2Proof

/-! ## The window store -/

/-- Every window of the store: PENDING ones and those in the four arbiters (section 3.1). -/
def State.windows (s : State) : List Window :=
  s.sched.pendingWindows ++ Corner.all.flatMap fun c => (s.arb.get c).held

def ofEvent (tag : Nat) (w : Window) : Bool := w.parent == .event tag

def isOrphan (w : Window) : Bool := w.parent == .orphan

/-- The live windows of an event (section 3.1). -/
def State.liveWindows (s : State) (tag : Nat) : List Window := s.windows.filter (ofEvent tag)

/-- A change made to every window of the store, in its place. -/
def mapWindows (f : Window → Window) (s : State) : State :=
  { s with
    sched := { s.sched with pendingWindows := s.sched.pendingWindows.map f }
    arb := s.arb.map (mapHeld f) }

/-- The windows that satisfy `p` are retired with an outcome and accounted: PENDING ones by the scheduler, open ones as
removals at their arbiters (R57, R61, R62, R68). -/
def retireWhere (p : Window → Bool) (o : WindowOutcome) (defer : Bool) (s : State) : State :=
  { s with
    sched := accountAll ((s.windows.filter p).map fun w => { win := w, outcome := o })
      { s.sched with pendingWindows := s.sched.pendingWindows.filter fun w => !p w }
    arb := s.arb.map (removeWindows p defer) }

/-! ## Flush (R70) -/

/-- Every event posts FLUSHED in admission order, all windows and orphans are dropped, the arbitration of all four
corners is cleared; the travel carry, ms count and admission number stay. -/
def flush (s : State) : State :=
  { s with
    sched := { s.sched with
      events := []
      pendingWindows := []
      completions := s.sched.completions ++ s.sched.events.map (recordOf .flushed s.sched.msCount)
      orphanCount := 0 }
    arb := s.arb.map clearArbitration }

/-! ## Admission (R47 to R50) -/

/-- A PREVIEW_EVENT after check 6 and the clamps of R48; extents in mm. -/
structure TakenEvent where
  tag : Nat
  track : Track
  severity : Nat
  report : ReportPoint
  distance : Int
  length : Nat
  lead : Nat
  trail : Nat
  cSoft : Nat
  cFirm : Nat
  clamped : List Bool
  deriving DecidableEq, Repr

/-- Check 6 and the clamps (R48). -/
def takeEvent (e : EventFields) : Option TakenEvent :=
  match trackOfCode e.track, reportOfCode e.report with
  | some track, some report =>
    if 1 ≤ e.severity.toNat ∧ e.severity.toNat ≤ 7 ∧ -400 ≤ e.distance.toInt ∧ e.distance.toInt ≤ 8000 then
      let len := clampNat 1 500 e.length.toNat
      let lead := min 300 e.lead.toNat
      let trail := min 500 e.trail.toNat
      let soft := min 4000 e.cSoft.toNat
      let firm := min 4000 e.cFirm.toNat
      some
        { tag := e.tag.toNat, track := track, severity := e.severity.toNat, report := report,
          distance := e.distance.toInt, length := 10 * len, lead := 10 * lead, trail := 10 * trail, cSoft := soft,
          cFirm := firm,
          clamped := [len != e.length.toNat, lead != e.lead.toNat, trail != e.trail.toNat, soft != e.cSoft.toNat,
                      firm != e.cFirm.toNat] }
    else none
  | _, _ => none

/-- The wheels of a track (scope, Terms). -/
def trackCorners : Track → List Corner
  | .left => [.fl, .rl]
  | .right => [.fr, .rr]
  | .both => [.fl, .fr, .rl, .rr]

/-- The window of a wheel at admission (R49). -/
def newWindow (s : State) (t : TakenEvent) (c : Corner) : Window :=
  { corner := c, parent := .event t.tag, severity := t.severity, lead := t.lead, length := t.length, trail := t.trail,
    cSoft := t.cSoft, cFirm := t.cFirm,
    pos := if c.isFront then t.distance * 10 else t.distance * 10 + wheelbase s.cal.working,
    admissionMs := s.sched.msCount, admissionNo := s.sched.admissionNo }

/-- The windows created: those not passed at admission (R49). -/
def createdWindows (s : State) (t : TakenEvent) : List Window :=
  ((trackCorners t.track).map (newWindow s t)).filter fun w => !windowPassed w

/-- The front windows passed at admission (R49, R50). -/
def frontSkipped (s : State) (t : TakenEvent) : Nat :=
  (((trackCorners t.track).map (newWindow s t)).filter fun w => w.corner.isFront && windowPassed w).length

/-- The rear windows passed at admission; R49: none where the event is admitted with a VALID image. -/
def rearSkipped (s : State) (t : TakenEvent) : Nat :=
  (((trackCorners t.track).map (newWindow s t)).filter fun w => !w.corner.isFront && windowPassed w).length

/-- The report point as entered: EARLY with every front window passed becomes FORCED_LATE (R50). -/
def enteredReport (s : State) (t : TakenEvent) : ReportPoint :=
  if t.report = .early ∧ (createdWindows s t).all (fun w => !w.corner.isFront) then .forcedLate else t.report

/-- The checks of R47 in their order, with what is admitted where all pass. -/
def admissionCheck (s : State) (e : EventFields) : Except RefusalCode TakenEvent :=
  if s.sup.part = .start then .error .busy
  else if s.sup.part = .limp then .error .limpActive
  else if s.sup.part ≠ .active then .error .wrongState
  else if 24 ≤ e.tag.toNat then .error .badTag
  else if s.sched.tagHeld e.tag.toNat then .error .tagBusy
  else
    match takeEvent e with
    | none => .error .badValue
    | some t =>
      if s.motion.direction ≠ .forward then .error .wrongDirection
      else if createdWindows s t = [] then .error .tooLate
      else .ok t

/-- The event entry of an admission (R50). -/
def newEvent (s : State) (t : TakenEvent) : Event :=
  { tag := t.tag, track := t.track, severity := t.severity, report := enteredReport s t,
    admissionMs := s.sched.msCount, admissionNo := s.sched.admissionNo,
    front := { served := 0, overridden := 0, skipped := frontSkipped s t },
    rear := { served := 0, overridden := 0, skipped := rearSkipped s t } }

/-- The scheduler after an admission (R50). -/
def admitEvent (s : State) (t : TakenEvent) : State :=
  s.setSched { s.sched with
    events := s.sched.events ++ [newEvent s t]
    pendingWindows := s.sched.pendingWindows ++ createdWindows s t
    admissionNo := s.sched.admissionNo + 1 }

/-- The corners at which a window was created (R50). -/
def createdCorners (s : State) (t : TakenEvent) : PerCorner Bool :=
  PerCorner.build fun c => (createdWindows s t).any fun w => w.corner == c

/-- PREVIEW_EVENT (R47, R50). -/
def performPreviewEvent (h : LinkHeader) (e : EventFields) (s : State) : Performed :=
  match admissionCheck s e with
  | .error code => refuse h code s
  | .ok t =>
    answerDone h
      [e.tag, BitVec.ofNat 8 (enteredReport s t).code, cornerSetByte (createdCorners s t),
       BitVec.ofNat 8 (frontSkipped s t + rearSkipped s t), bitsByte t.clamped]
      (admitEvent s t)

def execPreviewEvent (h : LinkHeader) (e : EventFields) (s : State) : Result :=
  transact (.previewEvent h e) h (performPreviewEvent h e) s

/-! ## Travel step (R51 to R58) -/

/-- Step distance in mm and the carry left, in µm (R51). -/
def stepDistance (s : State) : Nat × Nat :=
  if s.bodyFresh ∧ s.motion.direction = .forward then
    ((s.motion.speed * 10 + s.sched.carry) / 1000, (s.motion.speed * 10 + s.sched.carry) % 1000)
  else (0, s.sched.carry)

/-- Stage 1: every window of the store is moved; the carry is kept up (R51, R52). -/
def moveStage (s : State) : State :=
  let moved := mapWindows (fun w => { w with pos := w.pos - (stepDistance s).1 }) s
  moved.setSched { moved.sched with carry := (stepDistance s).2 }

/-- The ms count goes up by 1 (R60). -/
def countMs (s : State) : State := s.setSched { s.sched with msCount := s.sched.msCount + 1 }

/-- An event expires: its windows are retired EXPIRED, then it posts EXPIRED and leaves the table (R61). -/
def expireEvent (s : State) (e : Event) : State :=
  let t := retireWhere (ofEvent e.tag) .expired true s
  t.setSched (post .expired e t.sched)

/-- An event whose age equals max_age at a count (R61). -/
def eventDue (m : Memory) (now : Count) (e : Event) : Bool := ageAt now e.admissionMs == maxAge m

/-- An orphan whose age equals max_age at a count (R62). -/
def orphanDue (m : Memory) (now : Count) (w : Window) : Bool := isOrphan w && ageAt now w.admissionMs == maxAge m

/-- Stage 2: the count goes up, then events (in admission order) and orphans of age max_age end (R60 to R62). -/
def expiryStage (s : State) : State :=
  let t := countMs s
  let u := (t.sched.events.filter (eventDue t.cal.working t.sched.msCount)).foldl expireEvent t
  retireWhere (orphanDue u.cal.working u.sched.msCount) .expired true u

/-- Stage 3: PENDING windows that are PASSED are retired SKIPPED, without their arbiters (R54). -/
def skipStage (s : State) : State :=
  s.setSched
    (accountAll ((s.sched.pendingWindows.filter windowPassed).map fun w => { win := w, outcome := .skipped })
      { s.sched with pendingWindows := s.sched.pendingWindows.filter fun w => !windowPassed w })

/-- Stage 4: the closes of every corner's batch (R55). -/
def closeStage (s : State) : State :=
  { s with
    arb := PerCorner.build fun c => (closePassed s.sched.admissionNo (s.arb.get c)).1
    sched := accountAll (Corner.all.flatMap fun c => (closePassed s.sched.admissionNo (s.arb.get c)).2) s.sched }

/-- Order of the opens of a batch: increasing p, windows of equal p in admission order (R56). -/
def nearer (next : Count) (a b : Window) : Bool :=
  a.pos < b.pos || (a.pos == b.pos && admittedBefore next a b)

/-- A PENDING window is within its lead (R56). -/
def withinLead (w : Window) : Bool := w.pos ≤ w.lead

/-- The opens of one corner's batch, in their order (R56). -/
def openBatch (s : State) (c : Corner) : List Window :=
  sortBy (nearer s.sched.admissionNo) (s.sched.pendingWindows.filter fun w => withinLead w && w.corner == c)

/-- One corner's arbiter after the opens of its batch, with the retirements it returns (R56, R74). -/
def openedArbiter (s : State) (c : Corner) : Arbiter × List Retirement :=
  openAll (modeRow s.cal.working s.modes.inForce).preview (openBatch s c) (s.arb.get c)

/-- Stage 5: the opens of every corner's batch (R56). -/
def openStage (s : State) : State :=
  { s with
    arb := PerCorner.build fun c => (openedArbiter s c).1
    sched := accountAll (Corner.all.flatMap fun c => (openedArbiter s c).2)
      { s.sched with pendingWindows := s.sched.pendingWindows.filter fun w => !withinLead w } }

/-- Number of orphan places (R46). -/
def orphanLimit : Nat := 32

/-- The windows of an event become orphans (R64). -/
def orphan (tag : Nat) (w : Window) : Window := if ofEvent tag w then { w with parent := .orphan } else w

/-- An EARLY posting: each live rear window becomes an orphan in its place, the event posts and leaves (R64). -/
def postEarly (e : Event) (s : State) : State :=
  let t := mapWindows (orphan e.tag) s
  t.setSched (post .normal e { t.sched with orphanCount := t.sched.orphanCount + (s.liveWindows e.tag).length })

/-- An event held to the late report (R65). -/
def forceLate (tag : Nat) (sch : Scheduler) : Scheduler :=
  { sch with events := sch.events.map fun e => if e.tag = tag then { e with report := .forcedLate } else e }

/-- Settlement of one event (R58, R63 to R65). -/
def settleEvent (s : State) (e : Event) : State :=
  if e.report = .early then
    if (s.liveWindows e.tag).any fun w => w.corner.isFront then s
    else if (s.liveWindows e.tag).length ≤ orphanLimit - s.sched.orphanCount then postEarly e s
    else s.setSched (forceLate e.tag s.sched)
  else if s.liveWindows e.tag = [] then s.setSched (post .normal e s.sched)
  else s

/-- Stage 6: the events of the table are settled in admission order (R58). -/
def settleStage (s : State) : State := s.sched.events.foldl settleEvent s

/-- One travel step, its six stages in order (R52). -/
def travelStep (s : State) : State :=
  settleStage (openStage (closeStage (skipStage (expiryStage (moveStage s)))))

/-- TRAVEL_STEP: the scheduler's 1 ms timer expires (R52). -/
def execTravelStep (s : State) : Result := whenRunning travelStep s

/-- The event of a tag reaches max_age at the coming step (R61). -/
def eventAgeOccasion (tag : Nat) (s : State) : Bool :=
  s.sched.events.any fun e => e.tag == tag && eventDue s.cal.working (s.sched.msCount + 1) e

/-- EVENT_AGE_EXPIRY: the travel step at which the event of a tag reaches max_age (R61). -/
def execEventAgeExpiry (tag : Nat) (s : State) : Result := whenOccurs (eventAgeOccasion tag) travelStep s

/-- An orphan at a corner reaches max_age at the coming step (R62). -/
def orphanAgeOccasion (c : Corner) (s : State) : Bool :=
  s.windows.any fun w => w.corner == c && orphanDue s.cal.working (s.sched.msCount + 1) w

/-- ORPHAN_AGE_EXPIRY: the travel step at which an orphan at a corner reaches max_age (R62). -/
def execOrphanAgeExpiry (c : Corner) (s : State) : Result := whenOccurs (orphanAgeOccasion c) travelStep s

/-! ## Cancel (R67, R68) -/

/-- The event is cancelled: its live windows are retired CANCELLED, then it posts CANCELLED and leaves (R68). -/
def cancel (e : Event) (s : State) : State :=
  let t := retireWhere (ofEvent e.tag) .cancelled false s
  t.setSched (post .cancelled e t.sched)

/-- CANCEL_EVENT (R67). -/
def performCancelEvent (h : LinkHeader) (tag : Byte) (s : State) : Performed :=
  if s.sup.part = .start then refuse h .busy s
  else if s.sup.part = .limp then refuse h .limpActive s
  else if 24 ≤ tag.toNat then refuse h .badTag s
  else
    match s.sched.events.find? fun e => e.tag == tag.toNat with
    | some e => answerDone h [tag, BitVec.ofNat 8 (s.liveWindows e.tag).length] (cancel e s)
    | none => if s.sched.tagInList tag.toNat then refuse h .alreadyDone s else refuse h .notFound s

def execCancelEvent (h : LinkHeader) (tag : Byte) (s : State) : Result :=
  transact (.cancelEvent h tag) h (performCancelEvent h tag) s

/-! ## FLUSH_PREVIEW (R69) -/

def performFlushPreview (h : LinkHeader) (s : State) : Performed :=
  match s.sup.part with
  | .start => refuse h .busy s
  | .limp => refuse h .limpActive s
  | .standby | .stopping => refuse h .wrongState s
  | .active =>
    answerDone h [BitVec.ofNat 8 s.sched.events.length, BitVec.ofNat 8 (s.windows.filter isOrphan).length] (flush s)

def execFlushPreview (h : LinkHeader) (s : State) : Result := transact (.flushPreview h) h (performFlushPreview h) s

end Sys2Proof.Machine
end

