-- ==== Sys2Proof/Machine/Supervisor.lean ====
section
/-! DEFINITION. The supervisor: transitions of the part state (Chapter 8), the state requests, DRVEN, the STOPPING
timer, the link-silence expiry and STATUS. -/

namespace Sys2Proof.Machine

open Sys2Proof

/-! ## Transitions -/

/-- The entry to STANDBY from STOPPING or LIMP (R38, R146, R147): timer stopped, reasons cleared, every source none,
every driving stage OFF with its latch 0 mA, c_out and c_prev 0. -/
def enterStandby (s : State) : State :=
  { s with
    sup := { s.sup with part := .standby, limpFirst := none, limpSet := LimpReasons.empty, stoppingTimer := none,
                        source := PerCorner.replicate .none }
    drive := s.drive.map fun d => { driveDropped d with latch := 0 }
    law := s.law.map fun l => { l with cOut := 0, cPrev := 0 } }

/-- The entry to LIMP from ACTIVE or STOPPING (R148): flush, first reason and reason set, timer stopped, LIMP_ENTERED,
every source limp and every latch the limp current of its axle at once (R115). Drive states are kept (R120). -/
def enterLimp (r : LimpReason) (s : State) : State :=
  let t := flush s
  { t with
    sup := { t.sup with part := .limp, limpFirst := some r, limpSet := LimpReasons.empty.add r, stoppingTimer := none,
                        limpEntered := true, source := PerCorner.replicate .limp }
    drive := PerCorner.build fun c => { t.drive.get c with latch := limpCurrent t.cal.working c } }

/-- The entry to STOPPING from ACTIVE (R146): flush, STOPPING timer from 0 ms; the sources stay law. -/
def enterStopping (s : State) : State :=
  let t := flush s
  t.setSup { t.sup with part := .stopping, stoppingTimer := some 0 }

/-- The entry to ACTIVE from STANDBY (R144): c_prev 0 at every corner (R35), every source law, every stage in OFF
selected with DRVEN high. -/
def enterActive (s : State) : State :=
  { s with
    sup := { s.sup with part := .active, source := PerCorner.replicate .law }
    drive := s.drive.map driveSelected
    law := s.law.map fun l => { l with cPrev := 0 } }

/-- The return to ACTIVE from STOPPING (R144): timer stopped, c_prev kept (R35). -/
def returnActive (s : State) : State := s.setSup { s.sup with part := .active, stoppingTimer := none }

/-- c_out and c_prev of a corner at RESUME (R37): the forward map of its applied current at the band it holds. -/
def resumedResults (s : State) (c : Corner) : LawResults :=
  { s.law.get c with
    cOut := limpCoefficient s.cal.working c (s.law.get c).band (s.drive.get c)
    cPrev := limpCoefficient s.cal.working c (s.law.get c).band (s.drive.get c) }

/-- The entry to ACTIVE from LIMP (R154): reasons cleared, every source law, latches and drive states kept. -/
def resumeActive (s : State) : State :=
  { s with
    sup := { s.sup with part := .active, limpFirst := none, limpSet := LimpReasons.empty,
                        source := PerCorner.replicate .law }
    law := PerCorner.build (resumedResults s) }

/-! ## Events at the supervisor -/

/-- A cause of LIMP taken by the supervisor: in ACTIVE the entry, in LIMP the reason added, elsewhere nothing
(R151, R152). -/
def takeLimpCause (r : LimpReason) (s : State) : State :=
  match s.sup.part with
  | .active => enterLimp r s
  | .limp => s.addLimpReason r
  | .start | .standby | .stopping => s

/-! ## State requests -/

/-- GO_ACTIVE (R144). -/
def performGoActive (h : LinkHeader) (s : State) : Performed :=
  match s.sup.part with
  | .start => refuse h .busy s
  | .limp => refuse h .limpActive s
  | .active => answerDone h [] s
  | .stopping => answerDone h [] (returnActive s)
  | .standby =>
    if s.imageValid = false then refuse h .calInvalid s
    else if s.cal.store = .busy then refuse h .busy s
    else if s.drven = false then refuse h .notReady s
    else answerDone h [] (enterActive s)

def execGoActive (h : LinkHeader) (s : State) : Result := transact (.goActive h) h (performGoActive h) s

/-- GO_STANDBY (R146). -/
def performGoStandby (h : LinkHeader) (s : State) : Performed :=
  match s.sup.part with
  | .start => refuse h .busy s
  | .standby | .stopping => answerDone h [] s
  | .active => answerDone h [] (enterStopping s)
  | .limp => answerDone h [] (enterStandby s)

def execGoStandby (h : LinkHeader) (s : State) : Result := transact (.goStandby h) h (performGoStandby h) s

/-- ENTER_LIMP (R149). -/
def performEnterLimp (h : LinkHeader) (s : State) : Performed :=
  match s.sup.part with
  | .start => refuse h .busy s
  | .standby => refuse h .wrongState s
  | .active | .stopping => answerDone h [] (enterLimp .requested s)
  | .limp => answerDone h [] (s.addLimpReason .requested)

def execEnterLimp (h : LinkHeader) (s : State) : Result := transact (.enterLimp h) h (performEnterLimp h) s

/-- Some drive stage holds a hard fault. -/
def State.anyHardFault (s : State) : Bool := Corner.all.any fun c => (s.drive.get c).state.isHardFault

/-- RESUME (R154). -/
def performResume (h : LinkHeader) (s : State) : Performed :=
  match s.sup.part with
  | .start => refuse h .busy s
  | .standby | .active | .stopping => refuse h .wrongState s
  | .limp =>
    if s.drven = false ∨ s.anyHardFault then refuse h .notReady s else answerDone h [] (resumeActive s)

def execResume (h : LinkHeader) (s : State) : Result := transact (.resume h) h (performResume h) s

/-! ## DRVEN (R123, R150) -/

/-- What the supervisor does at a fall of DRVEN (R150). -/
def supervisorFall (s : State) : State :=
  match s.sup.part with
  | .active => enterLimp .enaLow s
  | .stopping => enterStandby s
  | .limp => s.addLimpReason .enaLow
  | .start | .standby => s

/-- A fall of DRVEN: each driving stage goes to OFF (R122, R123), then the supervisor acts; the two orders end alike
(R150). With the level already low there is no fall. A part held in reset sees only the level. -/
def takeDrvenFall (s : State) : State :=
  if s.held then { s with drven := false }
  else if s.drven then supervisorFall { s with drven := false, drive := s.drive.map driveDropped }
  else s

def execDrvenFall (s : State) : Result := .next (takeDrvenFall s)

/-- A rise of DRVEN at one stage: OFF and selected, it enters REGULATING (R121, R123). -/
def stageRise (s : State) (c : Corner) : Drive :=
  if (s.sup.source.get c).selected then driveSelected (s.drive.get c) else s.drive.get c

/-- A rise of DRVEN; the supervisor takes no action (R150). With the level already high there is no rise. -/
def takeDrvenRise (s : State) : State :=
  if s.held then { s with drven := true }
  else if s.drven then s
  else { s with drven := true, drive := PerCorner.build (stageRise s) }

def execDrvenRise (s : State) : Result := .next (takeDrvenRise s)

/-! ## STOPPING (R147) -/

/-- The STOPPING timer runs. -/
def stoppingRuns (s : State) : Bool := s.sup.part == .stopping && s.sup.stoppingTimer.isSome

/-- STOPPING_TIMER_EXPIRY: the part enters STANDBY (R147). -/
def execStoppingTimerExpiry (s : State) : Result := whenOccurs stoppingRuns enterStandby s

/-- Length of the STOPPING timer, in ms (R147). -/
def stoppingLimit : Nat := 500

/-- One millisecond of the STOPPING timer: the elapsed time goes up, and at 500 ms the timer expires. The table has no
row for this tick; `step` makes it where no command waits (DESIGN CHOICE, log entry 7). -/
def stoppingTick (s : State) : State :=
  match s.sup.stoppingTimer with
  | none => s
  | some n =>
    if s.held then s
    else if n + 1 < stoppingLimit then s.setSup { s.sup with stoppingTimer := some (n + 1) }
    else if s.sup.part = .stopping then enterStandby s
    else s

/-- Every corner's most recent c_out is 0. -/
def allAtRest (s : State) : Bool := Corner.all.all fun c => (s.law.get c).cOut == 0

/-- The end of a control period in STOPPING with all four corners at c_out 0 ends the state (R147). -/
def endStoppingAtRest (s : State) : State := if s.sup.part = .stopping ∧ allAtRest s then enterStandby s else s

/-! ## Link silence (R151, R168) -/

/-- Saturation of the silence count (R168). -/
def silenceLimit : Nat := 501

/-- The expiry that takes the count from limp_timeout to limp_timeout + 1, with the image VALID (R168). -/
def silenceExpires (s : State) : Bool := s.imageValid && s.link.silence == limpTimeout s.cal.working

/-- One expiry of the link port's 1 ms timer; where the silence expires, the supervisor takes LINK_LOST (R151). -/
def silenceTick (s : State) : State :=
  let t : State := { s with link := { s.link with silence := min silenceLimit (s.link.silence + 1) } }
  if silenceExpires s then takeLimpCause .linkLost t else t

/-- SILENCE_TIMER_TICK (R168). -/
def execSilenceTimerTick (s : State) : Result := whenRunning silenceTick s

/-- LINK_SILENCE_EXPIRY: the tick at which the silence count passes limp_timeout with a VALID image (R151, R168). -/
def execLinkSilenceExpiry (s : State) : Result := whenOccurs silenceExpires silenceTick s

/-! ## STATUS (R156) -/

def LimpReasons.byte (r : LimpReasons) : Byte := bitsByte [r.requested, r.enaLow, r.linkLost, r.cornerFault]

def State.noticesByte (s : State) : Byte :=
  bitsByte [s.sup.linkErr, s.sup.restarted, s.sup.limpEntered, s.sup.faultNew, s.completionsWaiting]

/-- STATUS payload (section 11.4). -/
def statusPayload (s : State) : List Byte :=
  [BitVec.ofNat 8 s.sup.part.code, s.sup.restartCause.code, BitVec.ofNat 8 (limpFirstCode s.sup.limpFirst),
   s.sup.limpSet.byte, s.noticesByte,
   bitsByte [s.faultSummary .fl, s.faultSummary .fr, s.faultSummary .rl, s.faultSummary .rr, false, false, false,
             s.drven],
   BitVec.ofNat 8 s.cal.imageState.code, BitVec.ofNat 8 s.cal.store.code, BitVec.ofNat 8 s.cal.lastResult.code,
   BitVec.ofNat 8 (128 * bit s.link.errorLatch + lastCauseCode s.link.lastCause)]

/-- The delivery of a STATUS reply clears the four latched notices and the link-error latch (R156, R167). -/
def deliverStatus (s : State) : State :=
  { s with
    sup := { s.sup with linkErr := false, restarted := false, limpEntered := false, faultNew := false }
    link := { s.link with errorLatch := false } }

/-- STATUS: payload and notice-pending bit as they stand before the delivery clears anything (R156, R157). -/
def performStatus (h : LinkHeader) (s : State) : Performed :=
  { state := deliverStatus s, reply := replyIn s h .done (statusPayload s) }

def execStatus (h : LinkHeader) (s : State) : Result := transact (.status h) h (performStatus h) s

/-! ## RESTART (R141) -/

/-- RESTART: its mode code is handed, then the part is reset with cause REQUESTED; RESTARTED is the pending reply. -/
def performRestart (s : State) : Performed :=
  { state := resetBlocks .requested s, reply := Reply.restarted .requested }

def execRestart (h : LinkHeader) (s : State) : Result := transact (.restart h) h performRestart s

end Sys2Proof.Machine
end

