-- ==== Sys2Proof/Machine/CornerRequests.lean ====
section
/-! DEFINITION. The requests that name corners: CORNER_OPTIONS (R89), READ_CORNER (R41, R42) and CLEAR_FAULTS (R134,
R135). -/

namespace Sys2Proof.Machine

open Sys2Proof

/-! ## CORNER_OPTIONS -/

/-- The minimum severity taken (R89). -/
def takenSeverity (b : Byte) : Nat := clampNat 1 8 b.toNat

/-- One corner's options replaced; the arbitration is untouched (R89, R90). -/
def setOptions (o : OptionFields) (a : Arbiter) : Arbiter :=
  { a with
    minSeverity := takenSeverity o.minSeverity
    reportRegLow := o.mask.getLsbD 0
    reportSensor := o.mask.getLsbD 1 }

/-- The options of all four corners replaced as one operation; each summary is formed again (R89, R138). -/
def applyOptions (o : PerCorner OptionFields) (s : State) : State :=
  noteFaultRise s { s with arb := PerCorner.build fun c => setOptions (o.get c) (s.arb.get c) }

/-- Minimum severity and mask in force at a corner, as sent (section 11.4). -/
def optionsInForce (a : Arbiter) : List Byte :=
  [BitVec.ofNat 8 a.minSeverity, bitsByte [a.reportRegLow, a.reportSensor]]

/-- CORNER_OPTIONS (R89). -/
def performCornerOptions (h : LinkHeader) (o : PerCorner OptionFields) (s : State) : Performed :=
  match s.sup.part with
  | .start => refuse h .busy s
  | .limp => refuse h .limpActive s
  | .stopping => refuse h .wrongState s
  | .standby | .active =>
    answerDone h
      (cornerSetByte (o.map fun f => takenSeverity f.minSeverity != f.minSeverity.toNat)
        :: (applyOptions o s).arb.toList.flatMap optionsInForce)
      (applyOptions o s)

def execCornerOptions (h : LinkHeader) (o : PerCorner OptionFields) (s : State) : Result :=
  transact (.cornerOptions h o) h (performCornerOptions h o) s

/-! ## READ_CORNER -/

/-- The ACTIVE window as shown: its tag, H'FE for an orphan, H'FF for none (section 11.4). -/
def activeByte (a : Arbiter) : Byte :=
  match a.active with
  | none => 0xFF
  | some h =>
    match h.win.parent with
    | .event tag => BitVec.ofNat 8 tag
    | .orphan => 0xFE

/-- The ACTIVE window's phase as shown, 0 with none (R42). -/
def activePhase (a : Arbiter) : Byte :=
  match a.active with
  | none => 0
  | some h => BitVec.ofNat 8 (windowPhase h.win).code

/-- The snapshot of a corner (R42, section 11.4). i_meas, D and the status shown are the most recent drive period's, as R42
and R139 say, also after a transition between two periods that set D 0 and the status NONE (R121, R122); the spec does
not say which of the two a snapshot in that interval shows (DEDUCED, log entry 26). -/
def snapshot (c : Corner) (s : State) : List Byte :=
  let q := s.acq.get c
  let l := s.law.get c
  let d := s.drive.get c
  let a := s.arb.get c
  [BitVec.ofNat 8 c.index] ++ intBytes q.x ++ intBytes q.vRel ++ intBytes l.vBody ++ natBytes l.cLaw ++ natBytes l.cOut
    ++ [BitVec.ofNat 8 l.band] ++ natBytes l.iTgt ++ natBytes d.iMeas ++ natBytes d.shownDuty
    ++ [BitVec.ofNat 8 d.state.code, BitVec.ofNat 8 d.retry, BitVec.ofNat 8 d.shownStatus.code,
        bitsByte [q.sensor, d.regLow, l.stale, s.faultSummary c], activeByte a, activePhase a,
        BitVec.ofNat 8 a.stack.length, BitVec.ofNat 8 a.waiting.length]

/-- READ_CORNER (R41). -/
def performReadCorner (h : LinkHeader) (number : Byte) (s : State) : Performed :=
  if s.sup.part = .start then refuse h .busy s
  else
    match cornerOfCode number with
    | none => refuse h .badValue s
    | some c => answerDone h (snapshot c s) s

def execReadCorner (h : LinkHeader) (number : Byte) (s : State) : Result :=
  transact (.readCorner h number) h (performReadCorner h number) s

/-! ## CLEAR_FAULTS -/

/-- A corner set of a request: bit n names corner n, the other bits are ignored (R134, R180). -/
def namedCorner (corners : Byte) (c : Corner) : Bool := corners.getLsbD c.index

/-- Some corner is named. -/
def namesSome (corners : Byte) : Bool := Corner.all.any (namedCorner corners)

/-- A stage after CLEAR_FAULTS (R135). -/
def clearedStage (corners : Byte) (s : State) (c : Corner) : Drive :=
  if namedCorner corners c then clearStage (s.sup.source.get c).selected s.drven (s.drive.get c) else s.drive.get c

/-- The faults of the named corners cleared as one operation (R134, R135). -/
def clearNamed (corners : Byte) (s : State) : State := { s with drive := PerCorner.build (clearedStage corners s) }

/-- The corners whose hard fault the request cleared (R134). -/
def faultsCleared (corners : Byte) (s : State) : PerCorner Bool :=
  PerCorner.build fun c => namedCorner corners c && (s.drive.get c).state.isHardFault

/-- CLEAR_FAULTS (R134). -/
def performClearFaults (h : LinkHeader) (corners : Byte) (s : State) : Performed :=
  match s.sup.part with
  | .start => refuse h .busy s
  | .active | .stopping => refuse h .wrongState s
  | .standby | .limp =>
    if namesSome corners then
      answerDone h
        ((clearNamed corners s).drive.toList.map (fun d => BitVec.ofNat 8 d.state.code)
          ++ [cornerSetByte (faultsCleared corners s)])
        (clearNamed corners s)
    else refuse h .badValue s

def execClearFaults (h : LinkHeader) (corners : Byte) (s : State) : Result :=
  transact (.clearFaults h corners) h (performClearFaults h corners) s

end Sys2Proof.Machine
end

