-- ==== Sys2Proof/Machine/Motion.lean ====
section
/-! DEFINITION. The motion input: BODY_STATE and the age of the body state (section 1.2). -/

namespace Sys2Proof.Machine

open Sys2Proof

/-- The record stored for a BODY_STATE, with age 0 (R10, R11). -/
def acceptedMotion (b : BodyFields) : Motion :=
  { w := clampInt (-2000) 2000 b.w.toInt
    p := clampInt (-4000) 4000 b.p.toInt
    q := clampInt (-4000) 4000 b.q.toInt
    speed := min 9000 b.speed.toNat
    direction := directionOfCode b.direction
    floors := b.floors.map fun f => min 4000 f.toNat
    age := 0 }

/-- The direction field was clamped: its code is neither FORWARD nor REVERSE (R11). -/
def directionClamped (code : Byte) : Bool := code != 0x00 && code != 0x01

/-- The clamped-field list, in payload order (R12). -/
def clampedFields (b : BodyFields) : List Bool :=
  let m := acceptedMotion b
  [m.w != b.w.toInt, m.p != b.p.toInt, m.q != b.q.toInt, m.speed != b.speed.toNat, directionClamped b.direction,
   m.floors.fl != b.floors.fl.toNat, m.floors.fr != b.floors.fr.toNat, m.floors.rl != b.floors.rl.toNat,
   m.floors.rr != b.floors.rr.toNat]

/-- The clamped-field list as two bytes, bit 0 first (section 11.4). -/
def clampedBytes (b : BodyFields) : List Byte :=
  natBytes ((clampedFields b).foldr (fun x n => bit x + 2 * n) 0)

/-- The acceptance of a body state: stored, and flushed after where it is REVERSE in ACTIVE (R10, R15). -/
def acceptBody (b : BodyFields) (s : State) : State :=
  let t := s.setMotion (acceptedMotion b)
  if directionOfCode b.direction = .reverse ∧ s.sup.part = .active then flush t else t

/-- BODY_STATE (R10, R12). -/
def performBodyState (h : LinkHeader) (b : BodyFields) (s : State) : Performed :=
  if s.sup.part = .start then refuse h .busy s
  else answerDone h (clampedBytes b ++ natBytes (acceptBody b s).sched.carry) (acceptBody b s)

def execBodyState (h : LinkHeader) (b : BodyFields) (s : State) : Result :=
  transact (.bodyState h b) h (performBodyState h b) s

/-- The age goes up by 1 and stays at 255 (R13). -/
def ageTick (s : State) : State := s.setMotion { s.motion with age := min 255 (s.motion.age + 1) }

/-- BODY_AGE_TICK (R13): the timer runs from reset in every part state. -/
def execBodyAgeTick (s : State) : Result := whenRunning ageTick s

end Sys2Proof.Machine
end

