-- ==== Sys2Proof/Machine/Period.lean ====
section
/-! DEFINITION. The two timer steps of a corner: CONTROL_PERIOD (R1) and DRIVE_PERIOD (R119), each whole, and the rows
of the table that name an occasion of one of them. -/

namespace Sys2Proof.Machine

open Sys2Proof

/-! ## CONTROL_PERIOD -/

/-- One control period of a corner (R1): in START no stage is performed; else acquisition, law, band, map and latch,
then the fault summary (R137), then the end of STOPPING where all four corners are at rest (R147). -/
def controlPeriod (c : Corner) (a : BitVec 12) (s : State) : State :=
  if s.sup.part = .start then s else endStoppingAtRest (noteFaultRise s (cornerPeriod c a s))

/-- CONTROL_PERIOD. -/
def execControlPeriod (c : Corner) (a : BitVec 12) (s : State) : Result := whenRunning (controlPeriod c a) s

/-- The coming period with this sample takes SENSOR of the corner from one level to the other (R3). -/
def sensorOccasion (c : Corner) (a : BitVec 12) (now next : Bool) (s : State) : Bool :=
  (s.acq.get c).sensor == now && ((controlPeriod c a s).acq.get c).sensor == next

/-- SENSOR_FAULT_SET: the control period whose sample is the third consecutive out-of-range one (R3). -/
def execSensorFaultSet (c : Corner) (a : BitVec 12) (s : State) : Result :=
  whenOccurs (sensorOccasion c a false true) (controlPeriod c a) s

/-- SENSOR_FAULT_CLEAR: the control period whose sample is the twentieth consecutive good one (R3). -/
def execSensorFaultClear (c : Corner) (a : BitVec 12) (s : State) : Result :=
  whenOccurs (sensorOccasion c a true false) (controlPeriod c a) s

/-! ## DRIVE_PERIOD -/

/-- A corner's stage after one drive period with a coil current (R119). -/
def periodStage (c : Corner) (current : Nat) (s : State) : Drive :=
  stagePeriod s.cal.working current (s.drive.get c)

/-- One drive period of a corner's stage: the stage's own period, then its fault summary (R137), then, at the entry to a
fault state, the hard-fault event at the supervisor (R132, R152). -/
def drivePeriod (c : Corner) (current : Nat) (s : State) : State :=
  let t := noteFaultRise s (s.setDrive c (periodStage c current s))
  if faultEntered (s.drive.get c) (periodStage c current s) then takeLimpCause .cornerFault t else t

/-- DRIVE_PERIOD. -/
def execDrivePeriod (c : Corner) (current : Nat) (s : State) : Result := whenRunning (drivePeriod c current) s

/-- OPEN_COIL_DETECTED: the drive period that brings the open-detect count to 50 and latches FAULT_OPEN (R128). -/
def execOpenCoilDetected (c : Corner) (current : Nat) (s : State) : Result :=
  whenOccurs
    (fun t => (t.drive.get c).state != .faultOpen && (periodStage c current t).state == .faultOpen)
    (drivePeriod c current) s

/-- RETRY_TIMER_EXPIRY: the drive period that brings the wait count to ten times the retry delay and runs as the first
REGULATING period (R130). -/
def execRetryTimerExpiry (c : Corner) (current : Nat) (s : State) : Result :=
  whenOccurs
    (fun t => (t.drive.get c).state == .overloadWait && (t.drive.get c).wait + 1 ≥ 10 * retryDelay t.cal.working)
    (drivePeriod c current) s

/-- CLEAN_RUN_EXPIRY: the drive period that brings the clean-run count to 10000 and the retry count to 0 (R131). -/
def execCleanRunExpiry (c : Corner) (current : Nat) (s : State) : Result :=
  whenOccurs
    (fun t => (t.drive.get c).cleanRun < 10000 && (periodStage c current t).cleanRun == 10000)
    (drivePeriod c current) s

/-- REG_LOW_SET: the drive period that brings the low run count to 100 (R127). -/
def execRegLowSet (c : Corner) (current : Nat) (s : State) : Result :=
  whenOccurs (fun t => !(t.drive.get c).regLow && (periodStage c current t).regLow) (drivePeriod c current) s

/-- REG_LOW_CLEAR: the drive period that brings the in run count to 100 (R127). -/
def execRegLowClear (c : Corner) (current : Nat) (s : State) : Result :=
  whenOccurs (fun t => (t.drive.get c).regLow && !(periodStage c current t).regLow) (drivePeriod c current) s

end Sys2Proof.Machine
end

