-- ==== Sys2Proof/Machine/Dispatch.lean ====
section
/-! DEFINITION. exec: one arm per command of the table, each one call of its meaning. -/

namespace Sys2Proof.Machine

open Sys2Proof

def exec (i : Instr) (s : State) : Host.Outcome State Fault Refusal :=
  match i with
  | .powerOnReset => Sys2Proof.Machine.execPowerOnReset s
  | .brownoutReset => Sys2Proof.Machine.execBrownoutReset s
  | .startLoadEnd => Sys2Proof.Machine.execStartLoadEnd s
  | .controlPeriod c a => Sys2Proof.Machine.execControlPeriod c a s
  | .sensorFaultSet c a => Sys2Proof.Machine.execSensorFaultSet c a s
  | .sensorFaultClear c a => Sys2Proof.Machine.execSensorFaultClear c a s
  | .bodyAgeTick => Sys2Proof.Machine.execBodyAgeTick s
  | .travelStep => Sys2Proof.Machine.execTravelStep s
  | .eventAgeExpiry tag => Sys2Proof.Machine.execEventAgeExpiry tag s
  | .orphanAgeExpiry c => Sys2Proof.Machine.execOrphanAgeExpiry c s
  | .drivePeriod c current => Sys2Proof.Machine.execDrivePeriod c current s
  | .openCoilDetected c current => Sys2Proof.Machine.execOpenCoilDetected c current s
  | .retryTimerExpiry c current => Sys2Proof.Machine.execRetryTimerExpiry c current s
  | .cleanRunExpiry c current => Sys2Proof.Machine.execCleanRunExpiry c current s
  | .regLowSet c current => Sys2Proof.Machine.execRegLowSet c current s
  | .regLowClear c current => Sys2Proof.Machine.execRegLowClear c current s
  | .drvenFall => Sys2Proof.Machine.execDrvenFall s
  | .drvenRise => Sys2Proof.Machine.execDrvenRise s
  | .stoppingTimerExpiry => Sys2Proof.Machine.execStoppingTimerExpiry s
  | .silenceTimerTick => Sys2Proof.Machine.execSilenceTimerTick s
  | .linkSilenceExpiry => Sys2Proof.Machine.execLinkSilenceExpiry s
  | .storeEnd cells => Sys2Proof.Machine.execStoreEnd cells s
  | .invalidFrame f => Sys2Proof.Machine.execInvalidFrame f s
  | .nop h => Sys2Proof.Machine.execNop h s
  | .status h => Sys2Proof.Machine.execStatus h s
  | .ident h => Sys2Proof.Machine.execIdent h s
  | .bodyState h b => Sys2Proof.Machine.execBodyState h b s
  | .previewEvent h e => Sys2Proof.Machine.execPreviewEvent h e s
  | .cancelEvent h tag => Sys2Proof.Machine.execCancelEvent h tag s
  | .flushPreview h => Sys2Proof.Machine.execFlushPreview h s
  | .collect h n => Sys2Proof.Machine.execCollect h n s
  | .cornerOptions h o => Sys2Proof.Machine.execCornerOptions h o s
  | .readCorner h n => Sys2Proof.Machine.execReadCorner h n s
  | .clearFaults h set => Sys2Proof.Machine.execClearFaults h set s
  | .goActive h => Sys2Proof.Machine.execGoActive h s
  | .goStandby h => Sys2Proof.Machine.execGoStandby h s
  | .enterLimp h => Sys2Proof.Machine.execEnterLimp h s
  | .resume h => Sys2Proof.Machine.execResume h s
  | .calSegment h n flags data => Sys2Proof.Machine.execCalSegment h n flags data s
  | .calRead h n => Sys2Proof.Machine.execCalRead h n s
  | .calStore h => Sys2Proof.Machine.execCalStore h s
  | .restart h => Sys2Proof.Machine.execRestart h s
  | .vddRecovery => Sys2Proof.Machine.execVddRecovery s

end Sys2Proof.Machine
end

