-- ==== Sys2Proof/Safety.lean ====
section
/-! DEFINITION. The laws a state of the part keeps, and the words the statements use for what a request leaves. Each law
is a predicate on any state, reached or not. -/

namespace Sys2Proof.Machine

open Sys2Proof

/-! ## Laws of a state -/

/-- Part state against image, DRVEN and store: a part held in reset is in START; in START the image is INVALID (R170);
ACTIVE and STOPPING have a VALID image and DRVEN high (R145); LIMP has a VALID image (R113); a store runs only in
STANDBY with a VALID image, and its mark is cleared (R176, R177). -/
def PartLegal (s : State) : Prop :=
  (s.held = true → s.sup.part = .start) ∧
  (s.sup.part = .start → s.cal.imageState = .invalid) ∧
  (s.sup.part = .active ∨ s.sup.part = .stopping → s.cal.imageState = .valid ∧ s.drven = true) ∧
  (s.sup.part = .limp → s.cal.imageState = .valid) ∧
  (s.cal.store = .busy → s.sup.part = .standby ∧ s.cal.imageState = .valid ∧ s.cal.nvMark = false)

/-- The target source of every stage in a part state (Chapter 8, Note 2). -/
def sourceOf : PartState → Source
  | .start | .standby => .none
  | .active | .stopping => .law
  | .limp => .limp

/-- A reason is in a reason set. -/
def LimpReasons.has (set : LimpReasons) : LimpReason → Bool
  | .requested => set.requested
  | .enaLow => set.enaLow
  | .linkLost => set.linkLost
  | .cornerFault => set.cornerFault

/-- The supervisor's own fields: the STOPPING timer runs exactly in STOPPING, below 500 ms (R147); the first reason is
held exactly in LIMP and is in the set, and outside LIMP the set is empty (R153); the sources follow the part state. -/
def SupervisorLegal (s : State) : Prop :=
  (s.sup.stoppingTimer.isSome = true ↔ s.sup.part = .stopping) ∧
  (∀ n, s.sup.stoppingTimer = some n → n < 500) ∧
  (s.sup.limpFirst.isSome = true ↔ s.sup.part = .limp) ∧
  (∀ r, s.sup.limpFirst = some r → s.sup.limpSet.has r = true) ∧
  (s.sup.part ≠ .limp → s.sup.limpSet = LimpReasons.empty) ∧
  (∀ c, s.sup.source.get c = sourceOf s.sup.part)

/-- The images: both memories canonical, and a VALID working image passes validation (R171, R174). -/
def ImageLegal (s : State) : Prop :=
  s.cal.working.wf ∧ s.cal.nv.wf ∧ (s.cal.imageState = .valid → validate s.cal.working = .pass)

/-- The download: RECEIVING goes with a RECEIVING image and the next index equal to the accepted count, 1..9 (R173). -/
def DownloadLegal (s : State) : Prop :=
  (s.cal.imageState = .receiving ↔ s.cal.download = .receiving) ∧
  (s.cal.download = .receiving → s.cal.expected = s.cal.accepted ∧ 1 ≤ s.cal.expected ∧ s.cal.expected ≤ 9)

/-- A drive state in which the stage regulates or waits to. -/
def DriveState.driving : DriveState → Bool
  | .regulating | .overloadWait => true
  | .off | .faultOpen | .faultShort => false

/-- One stage: duty within 0..950 and 0 with status NONE outside REGULATING (R125, R119); counts within their ranges and
0 where their state does not run them (section 7.1, R122, R129); retry count at most n_retry, and 0 in OFF and in the
fault states (R129, R121, R139); D and status of the most recent period 0 and NONE in OVERLOAD_WAIT and in the fault states
(R139). -/
def StageLegal (nRetry : Nat) (d : Drive) : Prop :=
  d.duty ≤ 950 ∧ d.lowRun ≤ 100 ∧ d.inRun ≤ 100 ∧ d.openCount < 50 ∧ d.cleanRun ≤ 10000 ∧ d.retry ≤ nRetry ∧
  (d.state ≠ .regulating →
    d.duty = 0 ∧ d.status = .none ∧ d.lowRun = 0 ∧ d.inRun = 0 ∧ d.openCount = 0 ∧ d.cleanRun = 0) ∧
  (d.state ≠ .overloadWait → d.wait = 0) ∧
  (d.state.driving = false → d.retry = 0) ∧
  d.shownDuty ≤ 950 ∧
  (d.state = .overloadWait ∨ d.state = .faultOpen ∨ d.state = .faultShort → d.shownDuty = 0 ∧ d.shownStatus = .none)

/-- Every stage is legal, and in START and STANDBY and while DRVEN is low none is driving (R120, R123). -/
def DrivesLegal (s : State) : Prop :=
  ∀ c, StageLegal (retryLimit s.cal.working) (s.drive.get c) ∧
    (s.sup.part = .start ∨ s.sup.part = .standby ∨ s.drven = false → (s.drive.get c).state.driving = false)

/-- The tag law (R45, R97): every tag of the table and of the list is 0..23 and none stands twice. -/
def TagsLegal (s : State) : Prop :=
  (s.sched.events.map Event.tag ++ s.sched.completions.map Completion.tag).Nodup ∧
  (∀ e ∈ s.sched.events, e.tag < 24) ∧ (∀ r ∈ s.sched.completions, r.tag < 24)

/-- The window store (R46): a tagged window's event is in the table, the orphan count counts the orphans and is at most
32, and the windows of an arbiter are windows of its corner. -/
def WindowsLegal (s : State) : Prop :=
  (∀ w ∈ s.windows, ∀ tag, w.parent = .event tag → ∃ e ∈ s.sched.events, e.tag = tag) ∧
  s.sched.orphanCount = (s.windows.filter isOrphan).length ∧ s.sched.orphanCount ≤ 32 ∧
  (∀ c, ∀ w ∈ (s.arb.get c).held, w.corner = c)

/-- Outside ACTIVE the event table and the window store are empty (R71, R72). -/
def ScheduleEmptyOutsideActive (s : State) : Prop :=
  s.sup.part ≠ .active →
    s.sched.events = [] ∧ s.windows = [] ∧ s.sched.orphanCount = 0

/-- The structure of one arbitration (R84): stack of at most 3 with severities strictly increasing, below the ACTIVE
window's; waiting severities at most the ACTIVE window's; with no ACTIVE window nothing is held; no selection due. -/
def ArbiterLegal (a : Arbiter) : Prop :=
  a.stack.length ≤ 3 ∧
  a.stack.Pairwise (fun x y => x.win.severity < y.win.severity) ∧
  (∀ h, a.active = some h → (∀ x ∈ a.stack, x.win.severity < h.win.severity) ∧
    ∀ x ∈ a.waiting, x.win.severity ≤ h.win.severity) ∧
  (a.active = none → a.stack = [] ∧ a.waiting = []) ∧
  a.selectionDue = false

def ArbitersLegal (s : State) : Prop := ∀ c, ArbiterLegal (s.arb.get c)

/-- An acquisition state within its ranges (section 1.1); v_rel is 0 while F is unset or SENSOR is set. -/
def AcquisitionLegal (q : Acquisition) : Prop :=
  -1500 ≤ q.x ∧ q.x ≤ 1500 ∧ -4000 ≤ q.vRel ∧ q.vRel ≤ 4000 ∧ q.bad ≤ 3 ∧ q.good ≤ 20 ∧
  (q.filter = none → q.vRel = 0) ∧ (q.sensor = true → q.vRel = 0) ∧
  (∀ f, q.filter = some f → -24000 ≤ f.value ∧ f.value ≤ 24000 ∧ -24000 ≤ f.previous ∧ f.previous ≤ 24000)

def AcquisitionsLegal (s : State) : Prop := ∀ c, AcquisitionLegal (s.acq.get c)

/-- The motion input and the counts of the scheduler and the link port within their ranges (sections 1.2, 3.1, 9.1). -/
def CountsLegal (s : State) : Prop :=
  (-2000 ≤ s.motion.w ∧ s.motion.w ≤ 2000) ∧ (-4000 ≤ s.motion.p ∧ s.motion.p ≤ 4000) ∧
  (-4000 ≤ s.motion.q ∧ s.motion.q ≤ 4000) ∧ s.motion.speed ≤ 9000 ∧ (∀ c, s.motion.floors.get c ≤ 4000) ∧
  s.motion.age ≤ 255 ∧ s.sched.carry ≤ 999 ∧ s.link.silence ≤ 501 ∧
  ∀ c, 1 ≤ (s.arb.get c).minSeverity ∧ (s.arb.get c).minSeverity ≤ 8

/-- Every coefficient lies in 0..4000 and every current in 0..1650 mA (sections 2.3, 6.1, 6.5; R48 for the windows). -/
def CoefficientsLegal (s : State) : Prop :=
  (∀ c, (s.law.get c).cLaw ≤ 4000 ∧ (s.law.get c).cA ≤ 4000 ∧ (s.law.get c).cB ≤ 4000 ∧ (s.law.get c).cC ≤ 4000 ∧
    (s.law.get c).cOut ≤ 4000 ∧ (s.law.get c).cPrev ≤ 4000 ∧ (s.law.get c).band ≤ 3 ∧ (s.law.get c).iTgt ≤ 1650 ∧
    (s.drive.get c).latch ≤ 1650) ∧
  (∀ c, s.motion.floors.get c ≤ 4000) ∧ (∀ w ∈ s.windows, w.cSoft ≤ 4000 ∧ w.cFirm ≤ 4000)

/-- In START and STANDBY no coefficient and no target reaches a valve (R34, R38, R114). -/
def RestLegal (s : State) : Prop :=
  s.sup.part = .start ∨ s.sup.part = .standby →
    ∀ c, (s.law.get c).cOut = 0 ∧ (s.law.get c).cPrev = 0 ∧ (s.drive.get c).latch = 0

/-- A window has passed its wheel and its trail (R53, PASSED). -/
abbrev Window.isPassed (w : Window) : Prop := w.pos ≤ -((w.length : Int) + w.trail)

/-- No window of the store is PASSED, and every open one is within its lead (R53). -/
def ReachLegal (s : State) : Prop :=
  (∀ w ∈ s.windows, ¬ w.isPassed) ∧ ∀ c, ∀ w ∈ (s.arb.get c).held, w.pos ≤ w.lead

/-! ## Words of the statements about requests -/

/-- The transaction of a request fits 48 bytes (R158, R163). -/
abbrev fits (k : RequestKind) (h : LinkHeader) : Prop := transactionBytes k h ≤ 48

/-- The first `n` bits that a select period shows on SDO: those of the pending reply's record, each byte most significant
bit first, and H'00 after them (R159). -/
def shownBits (s : State) (n : Nat) : List Bool := (bitsOf s.link.reply.record ++ List.replicate n false).take n

/-- What the transaction of a valid frame does besides performing its request (R159, R160, R165): the pending reply was
clocked out with H'00 after it, the silence count is 0, the mode code was handed; error latch and last cause stay. -/
def frameTaken (k : RequestKind) (h : LinkHeader) (s t : State) : Prop :=
  t.sdo = shownBits s (8 * transactionBytes k h) ∧
  t.modes = handMode h.mode s.modes ∧ t.link.silence = 0 ∧ t.link.receive = .idle ∧
  t.link.txPos = { byte := 0, bit := 0 } ∧ t.link.errorLatch = s.link.errorLatch ∧ t.link.lastCause = s.link.lastCause ∧
  t.held = s.held ∧ t.drven = s.drven ∧ t.freeCount = s.freeCount ∧ t.pending = s.pending

/-- The pending reply is DONE with a payload, formed in the state as it stands (R157, R166). -/
def answeredDone (h : LinkHeader) (payload : List Byte) (t : State) : Prop :=
  t.link.reply = { kind := .done, condition := t.conditionCode, seq := h.seq, payload := payload }

/-- The pending reply is REFUSED with a code, formed in the state as it stands (R157, R166). -/
def answeredRefused (h : LinkHeader) (code : RefusalCode) (t : State) : Prop :=
  t.link.reply = { kind := .refused, condition := t.conditionCode, seq := h.seq, payload := [code.code] }

/-- Every block but the link port and the mode selector is as before. -/
def blocksKept (s t : State) : Prop :=
  t.acq = s.acq ∧ t.law = s.law ∧ t.arb = s.arb ∧ t.drive = s.drive ∧ t.motion = s.motion ∧ t.sched = s.sched ∧
  t.sup = s.sup ∧ t.cal = s.cal

/-- A command runs to a next state in which its frame was taken, it was refused with a code, and no block changed. -/
def refusedWith (code : RefusalCode) (k : RequestKind) (h : LinkHeader) (i : Instr) (s : State) : Prop :=
  ∃ t, exec i s = .next t ∧ frameTaken k h s t ∧ answeredRefused h code t ∧ blocksKept s t

/-! ## Words of the statements about transitions -/

/-- The effects of a flush (R70): every event posts FLUSHED in admission order, windows and orphans are gone, the
arbitration of every corner is cleared; options, carry, ms count and admission number stay. -/
def flushed (s t : State) : Prop :=
  t.sched = { s.sched with
    events := [], pendingWindows := [], orphanCount := 0,
    completions := s.sched.completions ++ s.sched.events.map (recordOf .flushed s.sched.msCount) } ∧
  ∀ c, t.arb.get c = { s.arb.get c with
    active := none, stack := [], waiting := [], openCount := 0, selectionDue := false }

/-- A stage that a deselection or a fall of DRVEN took to OFF (R122): the counts are 0, REG_LOW, the latch and the values
of the most recent drive period stay. -/
def switchedOff (d : Drive) : Drive :=
  { state := .off, duty := 0, iMeas := d.iMeas, target := d.target, latch := d.latch, status := .none,
    shownDuty := d.shownDuty, shownStatus := d.shownStatus, lowRun := 0, inRun := 0, regLow := d.regLow, openCount := 0,
    retry := 0, wait := 0, cleanRun := 0 }

/-- A stage that has just entered REGULATING (R121, R130): D and the counts are 0; the retry count and the values of the
most recent drive period stay. -/
def switchedOn (d : Drive) : Drive :=
  { state := .regulating, duty := 0, iMeas := d.iMeas, target := d.target, latch := d.latch, status := .none,
    shownDuty := d.shownDuty, shownStatus := d.shownStatus, lowRun := 0, inRun := 0, regLow := d.regLow, openCount := 0,
    retry := d.retry, wait := 0, cleanRun := 0 }

/-- The entry to STANDBY from STOPPING or LIMP (R38, R115, R122, R146, R147). -/
def standbyEntered (s t : State) : Prop :=
  t.sup = { s.sup with
    part := .standby, limpFirst := none, limpSet := LimpReasons.empty, stoppingTimer := none,
    source := PerCorner.replicate .none } ∧
  (∀ c, t.drive.get c =
    if (s.drive.get c).state.driving then { switchedOff (s.drive.get c) with latch := 0 }
    else { s.drive.get c with latch := 0 }) ∧
  (∀ c, t.law.get c = { s.law.get c with cOut := 0, cPrev := 0 }) ∧
  t.acq = s.acq ∧ t.arb = s.arb ∧ t.motion = s.motion ∧ t.sched = s.sched ∧ t.cal = s.cal

/-- The entry to LIMP from ACTIVE or STOPPING with a reason (R148): the flush, the reasons, LIMP_ENTERED, every source
limp and every latch the limp current of its axle; drive states, counts and duties stay. -/
def limpEnteredWith (r : LimpReason) (s t : State) : Prop :=
  t.sup = { s.sup with
    part := .limp, limpFirst := some r, limpSet := LimpReasons.empty.add r, stoppingTimer := none, limpEntered := true,
    source := PerCorner.replicate .limp } ∧
  (∀ c, t.drive.get c = { s.drive.get c with latch := limpCurrent s.cal.working c }) ∧ flushed s t ∧
  t.acq = s.acq ∧ t.law = s.law ∧ t.motion = s.motion ∧ t.cal = s.cal

/-- A reason is added to the reason set and nothing else changes (R153). -/
def reasonAdded (r : LimpReason) (s : State) : State :=
  { s with sup := { s.sup with limpSet := s.sup.limpSet.add r } }

/-- What is not a block's and the link port and mode selector are as before. -/
def linkKept (s t : State) : Prop :=
  t.modes = s.modes ∧ t.link = s.link ∧ t.held = s.held ∧ t.drven = s.drven ∧ t.sdo = s.sdo ∧
  t.freeCount = s.freeCount ∧ t.pending = s.pending

/-- A drive period changes its own stage and nothing else, but that FAULT_NEW is set where the corner's fault summary
goes from clear to set (R119, R137). -/
def stageStepped (c : Corner) (s t : State) : Prop :=
  t = { s with
    drive := s.drive.set c (t.drive.get c),
    sup := { s.sup with faultNew := s.sup.faultNew || (!s.faultSummary c && t.faultSummary c) } }

/-- What the supervisor does with the entry of a stage to a fault state (R152): from ACTIVE the entry to LIMP, in LIMP
the reason CORNER_FAULT added, elsewhere nothing. -/
def faultHanded (u t : State) : Prop :=
  (u.sup.part = .active → limpEnteredWith .cornerFault u t ∧ linkKept u t) ∧
  (u.sup.part = .limp → t = reasonAdded .cornerFault u) ∧
  (u.sup.part ≠ .active → u.sup.part ≠ .limp → t = u)

/-- The receive state that a reset leaves: idle, or barred where a select period is open (section 9.1, R158). -/
abbrev receiveAfterCut (s : State) : ReceiveState := if s.link.receive = .idle then .idle else .barred

/-- Every block holds the values of its table after a reset with a cause (sections 1.1, 1.2, 2.1, 2.3, 3.1, 4.1, 5.2,
6.1, 7.1, 8.1, 9.1 and 10.1), with a receive state. -/
def blocksReset (cause : RestartCause) (receive : ReceiveState) (t : State) : Prop :=
  (∀ c, t.acq.get c = { adc := none, x := 0, filter := none, vRel := 0, bad := 0, good := 0, sensor := false }) ∧
  (∀ c, t.law.get c =
    { vBody := 0, stale := true, cLaw := 0, cA := 0, cB := 0, cC := 0, cOut := 0, cPrev := 0, band := 0, iTgt := 0 }) ∧
  (∀ c, t.arb.get c =
    { active := none, stack := [], waiting := [], openCount := 0, selectionDue := false,
      minSeverity := 1, reportRegLow := true, reportSensor := true }) ∧
  (∀ c, t.drive.get c =
    { state := .off, duty := 0, iMeas := 0, target := 0, latch := 0, status := .none, shownDuty := 0,
      shownStatus := .none, lowRun := 0, inRun := 0, regLow := false, openCount := 0, retry := 0, wait := 0,
      cleanRun := 0 }) ∧
  t.motion = { w := 0, p := 0, q := 0, speed := 0, direction := .forward, floors := PerCorner.replicate 0, age := 255 } ∧
  t.modes = { inForce := .normal, lastCode := none } ∧
  t.sched =
    { events := [], pendingWindows := [], completions := [], orphanCount := 0, carry := 0, msCount := 0,
      admissionNo := 0 } ∧
  t.sup =
    { part := .start, limpFirst := none, limpSet := LimpReasons.empty, restartCause := cause, linkErr := false,
      restarted := true, limpEntered := false, faultNew := false, stoppingTimer := none,
      source := PerCorner.replicate .none } ∧
  t.link =
    { receive := receive, txPos := { byte := 0, bit := 0 }, errorLatch := false,
      lastCause := none, silence := 0,
      reply := { kind := .restarted, condition := 0x28, seq := 0, payload := [cause.code] } } ∧
  t.cal.working = [] ∧ t.cal.imageState = .invalid ∧ t.cal.download = .idle ∧ t.cal.expected = 0 ∧ t.cal.accepted = 0 ∧
  t.cal.store = .idle ∧ t.cal.lastResult = .none

/-! ## Words of the statements about travel steps -/

/-- Distance of the coming travel step, in mm (R51). -/
def stepMm (s : State) : Nat :=
  if s.bodyFresh = true ∧ s.motion.direction = .forward then (s.motion.speed * 10 + s.sched.carry) / 1000 else 0

/-- Travel carry after the coming travel step, in µm (R51). -/
def carryAfter (s : State) : Nat :=
  if s.bodyFresh = true ∧ s.motion.direction = .forward then (s.motion.speed * 10 + s.sched.carry) % 1000
  else s.sched.carry

/-- What was admitted at a ms count has age max_age at the coming travel step (R60). -/
abbrev expiresNow (s : State) (admitted : Count) : Prop :=
  (s.sched.msCount + 1 - admitted).toNat = maxAge s.cal.working

/-- The window ends at the coming travel step by the age of its event, or by its own age where it is an orphan (R61,
R62). -/
def endsByAge (s : State) (w : Window) : Bool :=
  s.sched.events.any (fun e => decide (expiresNow s e.admissionMs) && ofEvent e.tag w)
    || (isOrphan w && decide (expiresNow s w.admissionMs))

/-- A window after the move of the coming travel step (R51). -/
def movedWindow (s : State) (w : Window) : Window := { w with pos := w.pos - stepMm s }

/-- A window of the first kind stands after a step as a window of the second: moved, and at an EARLY posting an orphan
(R51, R64). -/
def carriedOver (s : State) (w v : Window) : Prop :=
  v = { movedWindow s w with parent := v.parent } ∧ (v.parent = w.parent ∨ v.parent = .orphan)

/-- The order of the opens of a batch: increasing p, windows of equal p in admission order (R56). -/
def opensBefore (next : Count) (v w : Window) : Prop :=
  v.pos < w.pos ∨ v.pos = w.pos ∧ (next - w.admissionNo).toNat ≤ (next - v.admissionNo).toNat

/-- One axle's counts of an event with the retirements of its windows at that axle added, one for each (R57). -/
def countsWith (retired : List Retirement) (tag : Nat) (front : Bool) (k : OutcomeCounts) : OutcomeCounts :=
  let made := fun o =>
    (retired.filter fun r => ofEvent tag r.win && r.win.corner.isFront == front && r.outcome == o).length
  { served := k.served + made .served, overridden := k.overridden + made .overridden,
    skipped := k.skipped + made .skipped }

/-- The part after stages 1 to 5 of a travel step, with the batch of opens of each corner (R52 to R57, R60 to R62): the
windows moved and the ms count raised; events and windows that end by age gone, the events with EXPIRED records in admission
order; PENDING windows that are PASSED retired SKIPPED; at each corner the closes of the batch, then its opens in their
order; every retirement counted on its axle. -/
def openedState (batch : Corner → List Window) (s u : State) : Prop :=
  let live := (s.sched.pendingWindows.map (movedWindow s)).filter fun w => !endsByAge s w
  let ahead := live.filter fun w => decide (¬w.isPassed)
  let closed := fun c =>
    closePassed s.sched.admissionNo (removeWindows (endsByAge s) true (mapHeld (movedWindow s) (s.arb.get c)))
  let opened := fun c => openAll (modeRow s.cal.working s.modes.inForce).preview (batch c) (closed c).1
  let retired : List Retirement :=
    ((live.filter fun w => decide w.isPassed).map fun w => ⟨w, .skipped⟩)
      ++ Corner.all.flatMap (fun c => (closed c).2) ++ Corner.all.flatMap fun c => (opened c).2
  (∀ c, (batch c).Perm (ahead.filter fun w => decide (w.pos ≤ w.lead ∧ w.corner = c)) ∧
    (batch c).Pairwise (opensBefore s.sched.admissionNo)) ∧
  (∀ c, u.arb.get c = (opened c).1) ∧
  u.sched =
    { events :=
        (s.sched.events.filter fun e => decide (∀ x ∈ s.sched.events, expiresNow s x.admissionMs → x.tag ≠ e.tag)).map
          fun e => { e with front := countsWith retired e.tag true e.front, rear := countsWith retired e.tag false e.rear }
      pendingWindows := ahead.filter fun w => decide ((w.lead : Int) < w.pos)
      completions :=
        s.sched.completions
          ++ (s.sched.events.filter fun e => decide (expiresNow s e.admissionMs)).map
              (recordOf .expired (s.sched.msCount + 1))
      orphanCount :=
        s.sched.orphanCount
          - (s.windows.filter fun w => isOrphan w && decide (expiresNow s w.admissionMs)).length
          - (retired.filter fun r => isOrphan r.win).length
      carry := carryAfter s
      msCount := s.sched.msCount + 1
      admissionNo := s.sched.admissionNo } ∧
  u = { s with sched := u.sched, arb := u.arb }

/-! ## Words of the statements about the image -/

/-- A field of offsets 2..51 that begins at an offset is out of its range (section 11.5). -/
def headOutOfRange (m : Memory) (o : Nat) : Prop :=
  let v := m.word o
  (o = 2 ∧ ¬(2000 ≤ v ∧ v ≤ 3600)) ∨
  ((o = 4 ∨ o = 6) ∧ ¬(500 ≤ v ∧ v ≤ 900)) ∨
  ((o = 8 ∨ o = 10) ∧ ¬(600 ≤ v ∧ v ≤ 2200)) ∨
  ((o = 12 ∨ o = 14 ∨ o = 16 ∨ o = 18) ∧ 4095 < v) ∨
  ((o = 20 ∨ o = 22 ∨ o = 24 ∨ o = 26) ∧ ¬(1 ≤ v ∧ v ≤ 4095)) ∨
  (o = 28 ∧ ¬(1 ≤ (m.read o).toNat ∧ (m.read o).toNat ≤ 16)) ∨
  (o = 29 ∧ ¬(1 ≤ (m.read o).toNat ∧ (m.read o).toNat ≤ 64)) ∨
  (o = 30 ∧ ¬(20 ≤ v ∧ v ≤ 200)) ∨
  ((o = 32 ∨ o = 34 ∨ o = 36) ∧ ¬(20 ≤ v ∧ v ≤ 2000)) ∨
  ((o = 38 ∨ o = 40) ∧ 1650 < v) ∨
  (o = 42 ∧ ¬(1800 ≤ v ∧ v ≤ 2500)) ∨
  (o = 44 ∧ 7 < (m.read o).toNat) ∨
  (o = 45 ∧ ¬(10 ≤ (m.read o).toNat ∧ (m.read o).toNat ≤ 100)) ∨
  (o = 46 ∧ ¬(10 ≤ v ∧ v ≤ 500)) ∨
  (o = 48 ∧ ¬(20 ≤ v ∧ v ≤ 500)) ∨
  (o = 50 ∧ ¬(20 ≤ v ∧ v ≤ 300))

/-- A field of a mode row that begins at an offset is out of its range (section 11.5). -/
def modeOutOfRange (m : Memory) (o : Nat) : Prop :=
  let v := m.word o
  ∃ b, (b = 52 ∨ b = 66 ∨ b = 80 ∨ b = 94) ∧
    ((o = b ∧ 4000 < v) ∨ (o = b + 2 ∧ ¬(m.word b ≤ v ∧ v ≤ 4000)) ∨ (o = b + 4 ∧ 4000 < v) ∨
     (o = b + 6 ∧ ¬(m.word b ≤ v ∧ v ≤ m.word (b + 2))) ∨ ((o = b + 8 ∨ o = b + 10) ∧ ¬(1 ≤ v ∧ v ≤ 500)) ∨
     (o = b + 12 ∧ 1 < v))

/-- A map point at an offset is out of its range (section 11.5). -/
def pointOutOfRange (m : Memory) (o : Nat) : Prop := ∃ k, k < 96 ∧ o = 108 + 2 * k ∧ 4000 < m.word o

/-- The field that begins at an offset is out of its range (R174, section 11.5). -/
def outOfRange (m : Memory) (o : Nat) : Prop := headOutOfRange m o ∨ modeOutOfRange m o ∨ pointOutOfRange m o

/-- The map point at an offset is not greater than the point before it in its row (R174). -/
def outOfOrder (m : Memory) (o : Nat) : Prop :=
  ∃ r k, r < 8 ∧ k < 11 ∧ o = 108 + 24 * r + 2 * (k + 1) ∧ m.word o ≤ m.word (o - 2)

/-- The band edge at an offset is not greater than the edge before it (R174). -/
def edgeNotAbove (m : Memory) (o : Nat) : Prop := (o = 34 ∨ o = 36) ∧ m.word o ≤ m.word (o - 2)

/-- An offset is the first at which something fails. -/
def firstAt (fails : Nat → Prop) (o : Nat) : Prop := fails o ∧ ∀ p, p < o → ¬fails p

/-! ## Words of the statements about periods and admissions -/

/-- The working image is VALID. -/
abbrev imageIsValid (s : State) : Prop := s.cal.imageState = .valid

/-- The row of the mode table of the mode in force (section 2.2). -/
def rowInForce (s : State) : ModeRow := modeRow s.cal.working s.modes.inForce

/-- The error and the duty of a loop update of a stage with a measured current, from its latch (R125). -/
def loopError (d : Drive) (measured : Nat) : Int := (d.latch : Int) - measured
def nextDuty (s : State) (d : Drive) (measured : Nat) : Nat :=
  (max 0 (min 950 ((d.duty : Int) + (loopError d measured * loopGain s.cal.working).tdiv 64))).toNat

/-- A tag is held by an event of the table or by a record of the list (R45). -/
abbrev tagTaken (s : State) (tag : Nat) : Prop :=
  tag ∈ s.sched.events.map Event.tag ∨ tag ∈ s.sched.completions.map Completion.tag

/-- Length, lead and trail of a PREVIEW_EVENT as taken, in mm (R48). -/
def takenLength (e : EventFields) : Nat := 10 * min 500 (max 1 e.length.toNat)
def takenLead (e : EventFields) : Nat := 10 * min 300 e.lead.toNat
def takenTrail (e : EventFields) : Nat := 10 * min 500 e.trail.toNat

/-- Position of a wheel's window at admission, in mm (R49). -/
def admissionPosition (s : State) (e : EventFields) (c : Corner) : Int :=
  if c.isFront then 10 * e.distance.toInt else 10 * e.distance.toInt + wheelbase s.cal.working

/-- A wheel's window is passed at admission (R49). -/
def passedAtAdmission (s : State) (e : EventFields) (c : Corner) : Bool :=
  decide (admissionPosition s e c ≤ -((takenLength e : Int) + takenTrail e))

/-- The wheels of a track code (scope, Terms; section 11.2). -/
def wheelsOf (track : Byte) : List Corner :=
  if track = 1 then [.fl, .rl] else if track = 2 then [.fr, .rr] else [.fl, .fr, .rl, .rr]

/-- The values of check 6: track, severity and report-point codes known, distance in range (R47, R48). -/
abbrev valuesTaken (e : EventFields) : Prop :=
  (e.track = 1 ∨ e.track = 2 ∨ e.track = 3) ∧ (1 ≤ e.severity.toNat ∧ e.severity.toNat ≤ 7) ∧
  (e.report = 1 ∨ e.report = 2) ∧ (-400 ≤ e.distance.toInt ∧ e.distance.toInt ≤ 8000)

end Sys2Proof.Machine
end

