-- ==== Sys2Proof/WellFormed.lean ====
section
/-! DEFINITION. Which commands are well formed: what the types of `Instr`'s operands leave open and the spec
fixes. `exec` gives every command a meaning; these checks say which ones a sender can produce. -/

namespace Sys2Proof

/-- The most bytes one transaction may hold (R158, R163). -/
def maxTransactionBytes : Nat := 48

/-- The fixed payload length of a request, where the command is a request (section 11.2). -/
def Instr.payloadLength : Instr → Option Nat
  | .powerOnReset | .brownoutReset | .startLoadEnd => none
  | .controlPeriod _ _ | .sensorFaultSet _ _ | .sensorFaultClear _ _ => none
  | .bodyAgeTick | .travelStep | .eventAgeExpiry _ | .orphanAgeExpiry _ => none
  | .drivePeriod _ _ | .openCoilDetected _ _ | .retryTimerExpiry _ _ => none
  | .cleanRunExpiry _ _ | .regLowSet _ _ | .regLowClear _ _ => none
  | .drvenFall | .drvenRise | .stoppingTimerExpiry => none
  | .silenceTimerTick | .linkSilenceExpiry | .storeEnd _ | .invalidFrame _ => none
  | .nop _ => some 0
  | .status _ => some 0
  | .ident _ => some 0
  | .bodyState _ _ => some 17
  | .previewEvent _ _ => some 16
  | .cancelEvent _ _ => some 1
  | .flushPreview _ => some 0
  | .collect _ _ => some 1
  | .cornerOptions _ _ => some 8
  | .readCorner _ _ => some 1
  | .clearFaults _ _ => some 1
  | .goActive _ => some 0
  | .goStandby _ => some 0
  | .enterLimp _ => some 0
  | .resume _ => some 0
  | .calSegment _ _ _ _ => some 34
  | .calRead _ _ => some 1
  | .calStore _ => some 0
  | .restart _ => some 0
  | .vddRecovery => none

/-- The link header of a request. -/
def Instr.header : Instr → Option LinkHeader
  | .powerOnReset | .brownoutReset | .startLoadEnd => none
  | .controlPeriod _ _ | .sensorFaultSet _ _ | .sensorFaultClear _ _ => none
  | .bodyAgeTick | .travelStep | .eventAgeExpiry _ | .orphanAgeExpiry _ => none
  | .drivePeriod _ _ | .openCoilDetected _ _ | .retryTimerExpiry _ _ => none
  | .cleanRunExpiry _ _ | .regLowSet _ _ | .regLowClear _ _ => none
  | .drvenFall | .drvenRise | .stoppingTimerExpiry => none
  | .silenceTimerTick | .linkSilenceExpiry | .storeEnd _ | .invalidFrame _ => none
  | .nop h => some h
  | .status h => some h
  | .ident h => some h
  | .bodyState h _ => some h
  | .previewEvent h _ => some h
  | .cancelEvent h _ => some h
  | .flushPreview h => some h
  | .collect h _ => some h
  | .cornerOptions h _ => some h
  | .readCorner h _ => some h
  | .clearFaults h _ => some h
  | .goActive h => some h
  | .goStandby h => some h
  | .enterLimp h => some h
  | .resume h => some h
  | .calSegment h _ _ _ => some h
  | .calRead h _ => some h
  | .calStore h => some h
  | .restart h => some h
  | .vddRecovery => none

/-- A request's record and its padding fit one transaction (R158: 1..48 bytes). -/
def Instr.fitsTransaction (i : Instr) : Bool :=
  match i.payloadLength, i.header with
  | some n, some h => n + 5 + h.pad ≤ maxTransactionBytes
  | _, _ => true

/-- The operands of the timer and pin events are ones the part can produce: a tag is 0..23 (R45), an orphan
stands at a rear corner (R46, section 4.1), the cells a store can spoil lie in the 320-byte image (R177), and a
transaction has at least one clock edge (R158). -/
def Instr.operandsInRange : Instr → Bool
  | .eventAgeExpiry tag => tag < 24
  | .orphanAgeExpiry c => !c.isFront
  | .storeEnd cells => cells.all fun cell => cell.1 < 320
  | .invalidFrame (.ended bits) => !bits.isEmpty
  | _ => true

/-- A command that a sender of the part can produce. -/
def Instr.wellFormed (i : Instr) : Bool := i.fitsTransaction && i.operandsInRange

end Sys2Proof
end

