-- ==== Sys2Proof/Certificates/Slice0/Obligations.lean ====
section
/-! DEFINITION. The statements for the provers. Where a statement rests on a choice of the model, its docstring says so
and names the log entry. -/

open Sys2Proof Sys2Proof.Machine

/-! ## The queue and the resets -/

/-- A step executes the command at the front of the queue, the model's own (log entry 9), on the state with the queue's
rest. -/
def Obligations.StepRunsFrontCommand : Prop :=
  ∀ (i : Instr) (rest : List Instr) (s : State), s.pending = i :: rest → step s = exec i { s with pending := rest }

/-- R147, and the model's choice of log entry 7: a step on an empty queue is one millisecond of the STOPPING timer, and
the 500th takes STOPPING to STANDBY; without a running timer, or with the part held in reset, nothing changes. The row
STOPPING_TIMER_EXPIRY ends STOPPING at once (log entries 1 and 7), and has no effect outside STOPPING. -/
def Obligations.StoppingTimerEndsStopping : Prop :=
  (∀ s : State, s.pending = [] →
    (s.sup.stoppingTimer = none ∨ s.held = true → step s = .next s) ∧
    (∀ n, s.sup.stoppingTimer = some n → s.held = false → n + 1 < 500 →
      step s = .next { s with sup := { s.sup with stoppingTimer := some (n + 1) } }) ∧
    (s.sup.stoppingTimer = some 499 → s.held = false → s.sup.part = .stopping →
      ∃ t, step s = .next t ∧ standbyEntered s t ∧ linkKept s t)) ∧
  ∀ s : State, s.held = false →
    (s.sup.part = .stopping → s.sup.stoppingTimer ≠ none →
      ∃ t, exec .stoppingTimerExpiry s = .next t ∧ standbyEntered s t ∧ linkKept s t) ∧
    (s.sup.part ≠ .stopping → exec .stoppingTimerExpiry s = .next s)

/-- The reset tables of the chapters: what each of the three resets leaves in every block, the restart cause and the
RESTARTED reply, with the nonvolatile image kept where no store runs; and R158: a select period open at a supply reset ends
without a transaction, its bits discarded. The cause BROWNOUT at the moment of the brownout, and the pin level and the queue kept
through a reset, are the model's choices (log entries 8 and 9). -/
def Obligations.ResetsLeaveTheResetValues : Prop :=
  ∀ (s : State) (h : LinkHeader), s.cal.store = .idle →
    (∃ t, exec .powerOnReset s = .next t ∧ blocksReset .power (receiveAfterCut s) t ∧ t.cal.nv = s.cal.nv ∧
      t.cal.nvMark = s.cal.nvMark ∧ t.held = false ∧ t.drven = s.drven ∧ t.sdo = s.sdo ∧
      t.freeCount = s.freeCount ∧ t.pending = s.pending) ∧
    (s.held = false →
      ∃ t, exec .brownoutReset s = .next t ∧ blocksReset .brownout (receiveAfterCut s) t ∧ t.cal.nv = s.cal.nv ∧
        t.cal.nvMark = s.cal.nvMark ∧ t.held = true ∧ t.drven = s.drven ∧ t.sdo = s.sdo ∧
        t.freeCount = s.freeCount ∧ t.pending = s.pending) ∧
    (s.held = false → fits .restart h →
      ∃ t, exec (.restart h) s = .next t ∧ blocksReset .requested .idle t ∧ t.cal.nv = s.cal.nv ∧
        t.cal.nvMark = s.cal.nvMark ∧ t.held = false ∧ t.drven = s.drven ∧
        t.sdo = shownBits s (8 * transactionBytes .restart h) ∧ t.freeCount = s.freeCount ∧ t.pending = s.pending)

/-- R141 and R158: a part held in reset takes no command and shows no bit on SDO; VDD_RECOVERY releases it with cause
BROWNOUT and the RESTARTED reply, and is nothing to a part that runs. That the part goes on seeing the levels of DRVEN and SSN,
that a select period open at the release is not taken as a transaction, and that a recovery of a running part changes nothing
are the model's choices (log entry 8). -/
def Obligations.HeldPartTakesNothing : Prop :=
  (∀ (i : Instr) (s : State), s.held = true → i ≠ .powerOnReset → i ≠ .vddRecovery → i ≠ .drvenFall → i ≠ .drvenRise →
    ∃ t, exec i s = .next t ∧ t = { s with sdo := t.sdo, link := { s.link with receive := t.link.receive } } ∧
      ((requestParts i).isSome = true ∨ (∃ bits, i = .invalidFrame (.ended bits)) →
        t.sdo = [] ∧ t.link.receive = .idle) ∧
      ((∃ bits, i = .invalidFrame (.inProgress bits)) → t.sdo = [] ∧ t.link.receive = .barred) ∧
      (requestParts i = none → (∀ f, i ≠ .invalidFrame f) → t = s)) ∧
  (∀ s : State, s.held = true →
    exec .drvenFall s = .next { s with drven := false } ∧ exec .drvenRise s = .next { s with drven := true } ∧
    exec .vddRecovery s = .next { s with
      held := false,
      sup := { s.sup with restartCause := .brownout },
      link := { s.link with
        receive := receiveAfterCut s,
        reply := { kind := .restarted, condition := 0x28, seq := 0, payload := [0x02] } } }) ∧
  ∀ s : State, s.held = false → exec .vddRecovery s = .next s

/-- R142 and R171: the end of the START load. The working image holds the bytes read, its state is VALID exactly where
the mark is present and all four checks pass, the filters are unset where it becomes VALID (R5), and the part enters
STANDBY; nothing else changes. Outside START no load ends (log entry 1). -/
def Obligations.StartLoadDecidesTheImage : Prop :=
  ∀ s : State, s.held = false →
    (s.sup.part = .start →
      ∃ t, exec .startLoadEnd s = .next t ∧
        t.cal = { s.cal with
          working := s.cal.nv,
          imageState := if s.cal.nvMark = true ∧ validate s.cal.nv = .pass then .valid else .invalid } ∧
        (∀ c, t.acq.get c =
          if t.cal.imageState = .valid then { s.acq.get c with filter := none, vRel := 0 } else s.acq.get c) ∧
        t = { s with cal := t.cal, acq := t.acq, sup := { s.sup with part := .standby } }) ∧
    (s.sup.part ≠ .start → exec .startLoadEnd s = .next s)

/-! ## Control periods -/

/-- R3 to R7: the acquisition stages of a control period outside START: the two counts and SENSOR, calibrated travel,
filter and relative velocity, and the other corners' acquisition kept. -/
def Obligations.PeriodAcquiresTravel : Prop :=
  ∀ (c : Corner) (a : BitVec 12) (s : State), s.held = false → s.sup.part ≠ .start →
    ∃ t, exec (.controlPeriod c a) s = .next t ∧
      let q := s.acq.get c
      let r := t.acq.get c
      let good := 100 ≤ a.toNat ∧ a.toNat ≤ 3995
      let kept := if q.sensor = true ∧ r.sensor = false then none else q.filter
      r.adc = some a ∧
      (good → r.bad = 0 ∧ r.good = min 20 (q.good + 1) ∧ (r.sensor = true ↔ q.sensor = true ∧ r.good ≠ 20)) ∧
      (¬good → r.good = 0 ∧ r.bad = min 3 (q.bad + 1) ∧ (r.sensor = true ↔ q.sensor = true ∨ r.bad = 3)) ∧
      (good → imageIsValid s →
        r.x = max (-1500) (min 1500
          (((a.toNat : Int) - travelZero s.cal.working c) * travelGain s.cal.working c).tdiv 1024)) ∧
      (¬(good ∧ imageIsValid s) → r.x = q.x) ∧
      (good → r.sensor = false → imageIsValid s → kept = none →
        r.filter = some { value := 16 * r.x, previous := 16 * r.x } ∧ r.vRel = 0) ∧
      (good → r.sensor = false → imageIsValid s → ∀ f, kept = some f →
        ∃ g, r.filter = some g ∧ g.previous = f.value ∧
          g.value = f.value + ((16 * r.x - f.value) * filterAlpha s.cal.working).tdiv 16 ∧
          r.vRel = max (-4000) (min 4000 (((g.value - g.previous) * 25).tdiv 4))) ∧
      (¬(good ∧ r.sensor = false ∧ imageIsValid s) → r.filter = kept) ∧
      (r.sensor = true ∨ ¬imageIsValid s → r.vRel = 0) ∧
      (¬good → r.sensor = false → imageIsValid s → r.vRel = if kept = none then 0 else q.vRel) ∧
      ∀ d, d ≠ c → t.acq.get d = s.acq.get d

/-- R3: SENSOR is set in the period whose sample is the third consecutive out-of-range one and cleared in the period
whose sample is the twentieth consecutive good one; the two rows are that control period. Without such a period at hand
the row changes nothing (log entry 1). -/
def Obligations.SensorFaultRows : Prop :=
  ∀ (c : Corner) (a : BitVec 12) (s : State), s.held = false → s.sup.part ≠ .start →
    let q := s.acq.get c
    let good := 100 ≤ a.toNat ∧ a.toNat ≤ 3995
    (q.sensor = false → q.bad = 2 → ¬good →
      exec (.sensorFaultSet c a) s = exec (.controlPeriod c a) s ∧
      ∃ t, exec (.sensorFaultSet c a) s = .next t ∧ (t.acq.get c).sensor = true ∧ (t.acq.get c).bad = 3 ∧
        (t.acq.get c).filter = q.filter ∧ (t.acq.get c).vRel = 0) ∧
    (q.sensor = true → q.good = 19 → good →
      exec (.sensorFaultClear c a) s = exec (.controlPeriod c a) s ∧
      ∃ t, exec (.sensorFaultClear c a) s = .next t ∧ (t.acq.get c).sensor = false ∧ (t.acq.get c).good = 20 ∧
        (imageIsValid s → (t.acq.get c).filter = some { value := 16 * (t.acq.get c).x, previous := 16 * (t.acq.get c).x }) ∧
        (t.acq.get c).vRel = 0) ∧
    (q.sensor = true ∨ good ∨ q.bad + 1 < 3 → exec (.sensorFaultSet c a) s = .next s) ∧
    (q.sensor = false ∨ ¬good ∨ q.good + 1 < 20 → exec (.sensorFaultClear c a) s = .next s)

/-- R18 and R27 to R33: the law stages of a control period with a VALID image, from this period's v_rel and SENSOR:
v_body and the STALE mark, c_law, c_a, c_b, c_c, and c_out with c_prev where the part state read is not LIMP. -/
def Obligations.PeriodRunsTheLaw : Prop :=
  ∀ (c : Corner) (a : BitVec 12) (s : State), s.held = false → s.sup.part ≠ .start → imageIsValid s →
    ∃ t, exec (.controlPeriod c a) s = .next t ∧
      let q := t.acq.get c
      let l := t.law.get c
      let row := rowInForce s
      let rollSign : Int := if c = .fl ∨ c = .rl then 1 else -1
      let pitchSign : Int := if c = .rl ∨ c = .rr then 1 else -1
      l.stale = !s.bodyFresh ∧
      l.vBody =
        (if s.bodyFresh then
          max (-3000) (min 3000 (s.motion.w + rollSign * (s.motion.p * halfTrack s.cal.working c).tdiv 1000
            + pitchSign * (s.motion.q * lever s.cal.working c).tdiv 1000))
        else 0) ∧
      l.cLaw =
        (if l.stale = true ∨ q.sensor = true then row.cFallback
        else if l.vBody * q.vRel ≤ 0 then row.cMin
        else min 4000 ((row.cSky * l.vBody.natAbs) / max q.vRel.natAbs (vGate s.cal.working))) ∧
      ((s.arb.get c).active = none → l.cA = l.cLaw) ∧
      (∀ w, (s.arb.get c).active = some w →
        (-(w.win.length : Int) < w.win.pos → w.win.pos ≤ w.win.lead → l.cA = min l.cLaw w.win.cSoft) ∧
        (-((w.win.length : Int) + w.win.trail) < w.win.pos → w.win.pos ≤ -(w.win.length : Int) →
          l.cA = max l.cLaw w.win.cFirm)) ∧
      l.cB = (if l.stale then l.cA else max l.cA (s.motion.floors.get c)) ∧
      l.cC = (if s.sup.part = .stopping then 0 else min (max l.cB row.cMin) row.cMax) ∧
      (s.sup.part = .active ∨ s.sup.part = .stopping →
        l.cOut = if l.cC > (s.law.get c).cPrev then min l.cC ((s.law.get c).cPrev + row.rise)
          else max l.cC ((s.law.get c).cPrev - row.fall)) ∧
      (s.sup.part = .standby → l.cOut = 0) ∧
      l.cPrev = l.cOut

/-- R105, R107, R108 and R114: band, target current and target latch of a control period with a VALID image outside START;
where the period ends STOPPING (R147) the latch is then 0 mA. R1, R25, R36 and R104: in LIMP c_out is the forward map of
the applied current at the band of the period; with the image not VALID every result is 0 and the period STALE; in START
nothing happens. -/
def Obligations.PeriodTargetsAndLimp : Prop :=
  (∀ (c : Corner) (a : BitVec 12) (s : State), s.held = false → s.sup.part ≠ .start → imageIsValid s →
    ∃ t, exec (.controlPeriod c a) s = .next t ∧
      let v := (t.acq.get c).vRel.natAbs
      let l := t.law.get c
      let m := s.cal.working
      (v < edge1 m → l.band = 0) ∧
      (edge1 m ≤ v → v < edge2 m → l.band = 1) ∧
      (edge1 m ≤ v → edge2 m ≤ v → v < edge3 m → l.band = 2) ∧
      (edge1 m ≤ v → edge2 m ≤ v → edge3 m ≤ v → l.band = 3) ∧
      (s.sup.part ≠ .limp → l.iTgt = inverseMap (mapPoint m c l.band) l.cOut) ∧
      (s.sup.part = .limp → l.iTgt = limpCurrent m c) ∧
      (t.drive.get c).latch =
        if t.sup.part ≠ s.sup.part then 0
        else if s.sup.source.get c = .law then l.iTgt
        else if s.sup.source.get c = .limp then limpCurrent m c
        else 0) ∧
  (∀ (c : Corner) (a : BitVec 12) (s : State), s.held = false →
    (s.sup.part = .limp → imageIsValid s →
      ∃ t, exec (.controlPeriod c a) s = .next t ∧
        (t.law.get c).cOut =
          forwardMap (mapPoint s.cal.working c (t.law.get c).band)
            (if (s.drive.get c).state = .regulating then limpCurrent s.cal.working c else 0) ∧
        (t.law.get c).cPrev = (t.law.get c).cOut) ∧
    (s.sup.part = .standby → ¬imageIsValid s →
      ∃ t, exec (.controlPeriod c a) s = .next t ∧
        t.law.get c =
          { vBody := 0, stale := true, cLaw := 0, cA := 0, cB := 0, cC := 0, cOut := 0, cPrev := 0, band := 0,
            iTgt := 0 }) ∧
    (s.sup.part = .start → exec (.controlPeriod c a) s = .next s))

/-- R1, R137 and R147: what a control period changes besides its corner's results. FAULT_NEW is set where the corner's
fault summary goes from clear to set; a period that leaves c_out 0 at all four corners ends STOPPING; else only the
corner's acquisition, results and latch change. -/
def Obligations.PeriodChangesOnlyItsCorner : Prop :=
  ∀ (c : Corner) (a : BitVec 12) (s : State), s.held = false → s.sup.part ≠ .start →
    ∃ t, exec (.controlPeriod c a) s = .next t ∧
      let ends := s.sup.part = .stopping ∧ (t.law.get c).cOut = 0 ∧ ∀ d, d ≠ c → (s.law.get d).cOut = 0
      let noted := s.sup.faultNew || (!s.faultSummary c && t.faultSummary c)
      (¬ends →
        t = { s with
          acq := s.acq.set c (t.acq.get c),
          law := s.law.set c (t.law.get c),
          drive := s.drive.set c { s.drive.get c with latch := (t.drive.get c).latch },
          sup := { s.sup with faultNew := noted } }) ∧
      (ends →
        ∃ u, standbyEntered u t ∧ linkKept u t ∧
          u = { s with
            acq := s.acq.set c (t.acq.get c),
            law := s.law.set c (u.law.get c),
            drive := s.drive.set c { s.drive.get c with latch := (u.drive.get c).latch },
            sup := { s.sup with faultNew := noted } })

/-! ## The maps -/

/-- R107 and R110: the two readings of a map row that is strictly increasing from R[0] to R[11]. -/
def Obligations.MapReadings : Prop :=
  ∀ row : Nat → Nat, (∀ k, k < 11 → row k < row (k + 1)) →
    (∀ c,
      (c ≤ row 0 → inverseMap row c = 0) ∧ (row 11 ≤ c → inverseMap row c = 1650) ∧
      (∀ k, k ≤ 10 → row k ≤ c → c < row (k + 1) →
        inverseMap row c = 150 * k + ((c - row k) * 150) / (row (k + 1) - row k) ∧
        150 * k ≤ inverseMap row c ∧ inverseMap row c ≤ 150 * k + 149) ∧
      inverseMap row c ≤ 1650) ∧
    (∀ k, k ≤ 11 → inverseMap row (row k) = 150 * k ∧ forwardMap row (150 * k) = row k) ∧
    ∀ i, i ≤ 1650 →
      forwardMap row i =
        row (min (i / 150) 10)
          + ((i - 150 * min (i / 150) 10) * (row (min (i / 150) 10 + 1) - row (min (i / 150) 10))) / 150 ∧
      row 0 ≤ forwardMap row i ∧ forwardMap row i ≤ row 11

/-- R112: a round trip through both maps never rises, is exact at the grid currents, and falls by at most 150 divided by
the difference of the segment's two points, rounded up. -/
def Obligations.RoundTripNeverRises : Prop :=
  ∀ row : Nat → Nat, (∀ k, k < 11 → row k < row (k + 1)) → ∀ i, i ≤ 1650 →
    inverseMap row (forwardMap row i) ≤ i ∧
    (i % 150 = 0 → inverseMap row (forwardMap row i) = i) ∧
    i - inverseMap row (forwardMap row i) ≤
      (150 + (row (min (i / 150) 10 + 1) - row (min (i / 150) 10)) - 1)
        / (row (min (i / 150) 10 + 1) - row (min (i / 150) 10))

/-! ## Motion input, mode selector and scheduler -/

/-- R10, R11, R12 and R15: an accepted BODY_STATE stores the clamped record with age 0, flushes the preview schedule where
the record is REVERSE in ACTIVE, and answers with the clamped-field list and the travel carry. -/
def Obligations.BodyStateIsClampedAndStored : Prop :=
  ∀ (h : LinkHeader) (b : BodyFields) (s : State), s.held = false → fits .bodyState h → s.sup.part ≠ .start →
    ∃ t, exec (.bodyState h b) s = .next t ∧ frameTaken .bodyState h s t ∧
      let m := t.motion
      m.w = max (-2000) (min 2000 b.w.toInt) ∧ m.p = max (-4000) (min 4000 b.p.toInt) ∧
      m.q = max (-4000) (min 4000 b.q.toInt) ∧ m.speed = min 9000 b.speed.toNat ∧
      m.direction = (if b.direction = 0x01 then .reverse else .forward) ∧
      (∀ c, m.floors.get c = min 4000 (b.floors.get c).toNat) ∧ m.age = 0 ∧
      (m.direction = .reverse ∧ s.sup.part = .active → flushed s t) ∧
      (¬(m.direction = .reverse ∧ s.sup.part = .active) → t.sched = s.sched ∧ t.arb = s.arb) ∧
      t.acq = s.acq ∧ t.law = s.law ∧ t.drive = s.drive ∧ t.sup = s.sup ∧ t.cal = s.cal ∧
      answeredDone h
        (natBytes (bit (m.w ≠ b.w.toInt) + 2 * bit (m.p ≠ b.p.toInt) + 4 * bit (m.q ≠ b.q.toInt)
            + 8 * bit (m.speed ≠ b.speed.toNat) + 16 * bit (b.direction ≠ 0x00 ∧ b.direction ≠ 0x01)
            + 32 * bit (m.floors.fl ≠ b.floors.fl.toNat) + 64 * bit (m.floors.fr ≠ b.floors.fr.toNat)
            + 128 * bit (m.floors.rl ≠ b.floors.rl.toNat) + 256 * bit (m.floors.rr ≠ b.floors.rr.toNat))
          ++ natBytes s.sched.carry) t

/-- R13 and R14: the age goes up by 1 and stays at 255, in every part state; the body state is fresh exactly while the
image is VALID and the age is at most body_timeout. -/
def Obligations.BodyAgeRunsAndDecidesFreshness : Prop :=
  (∀ s : State, s.held = false →
    exec .bodyAgeTick s = .next { s with motion := { s.motion with age := min 255 (s.motion.age + 1) } }) ∧
  ∀ s : State, s.bodyFresh = true ↔ imageIsValid s ∧ s.motion.age ≤ bodyTimeout s.cal.working

/-- R22: every valid frame but RESTART, performed or refused, hands its mode code to the selector in every part state. A
code 0..3 that equals the last valid code seen becomes the mode in force and is the last code after; any other code 0..3
leaves the mode in force; a code 4..15 leaves the mode in force and is recorded as none. -/
def Obligations.ValidFramesFeedTheModeSelector : Prop :=
  ∀ (i : Instr) (k : RequestKind) (h : LinkHeader) (payload : List Byte) (s : State),
    requestParts i = some (k, h, payload) → k ≠ .restart → s.held = false → fits k h →
    ∃ t, exec i s = .next t ∧
      (∀ m : Mode, m.code = h.mode.toNat →
        t.modes.lastCode = some m ∧
        t.modes.inForce = if s.modes.lastCode = some m then m else s.modes.inForce) ∧
      (4 ≤ h.mode.toNat → t.modes = { inForce := s.modes.inForce, lastCode := none })

/-- R47 to R49: the checks of PREVIEW_EVENT in their order; the first that fails gives the refusal and nothing but the
link port and the mode selector changes. -/
def Obligations.AdmissionChecksInOrder : Prop :=
  ∀ (h : LinkHeader) (e : EventFields) (s : State), s.held = false → fits .previewEvent h →
    (s.sup.part = .start → refusedWith .busy .previewEvent h (.previewEvent h e) s) ∧
    (s.sup.part = .limp → refusedWith .limpActive .previewEvent h (.previewEvent h e) s) ∧
    (s.sup.part = .standby ∨ s.sup.part = .stopping →
      refusedWith .wrongState .previewEvent h (.previewEvent h e) s) ∧
    (s.sup.part = .active →
      (24 ≤ e.tag.toNat → refusedWith .badTag .previewEvent h (.previewEvent h e) s) ∧
      (e.tag.toNat < 24 → tagTaken s e.tag.toNat → refusedWith .tagBusy .previewEvent h (.previewEvent h e) s) ∧
      (e.tag.toNat < 24 → ¬tagTaken s e.tag.toNat →
        (¬valuesTaken e → refusedWith .badValue .previewEvent h (.previewEvent h e) s) ∧
        (valuesTaken e → s.motion.direction = .reverse →
          refusedWith .wrongDirection .previewEvent h (.previewEvent h e) s) ∧
        (valuesTaken e → s.motion.direction = .forward → (∀ c ∈ wheelsOf e.track, passedAtAdmission s e c = true) →
          refusedWith .tooLate .previewEvent h (.previewEvent h e) s)))

/-- R48 to R50: a PREVIEW_EVENT that passes every check. The entry joins the table with the clamped values, the windows
that are not passed join the store PENDING, the admission number goes up by 1, front windows passed at admission are
counted skipped, an EARLY event with none left at the front is entered FORCED_LATE, and the reply says so. -/
def Obligations.AdmissionMakesEventAndWindows : Prop :=
  ∀ (h : LinkHeader) (e : EventFields) (s : State) (track : Track) (asked : ReportPoint),
    s.held = false → fits .previewEvent h → s.sup.part = .active → e.tag.toNat < 24 → ¬tagTaken s e.tag.toNat →
    valuesTaken e → trackOfCode e.track = some track → reportOfCode e.report = some asked →
    s.motion.direction = .forward → (∃ c ∈ wheelsOf e.track, passedAtAdmission s e c = false) →
    let created := (wheelsOf e.track).filter fun c => !passedAtAdmission s e c
    let skipped := ((wheelsOf e.track).filter fun c => c.isFront && passedAtAdmission s e c).length
    let report : ReportPoint := if asked = .early ∧ (∀ c ∈ created, c.isFront = false) then .forcedLate else asked
    ∃ t, exec (.previewEvent h e) s = .next t ∧ frameTaken .previewEvent h s t ∧
      t.sched = { s.sched with
        events := s.sched.events ++
          [{ tag := e.tag.toNat, track := track, severity := e.severity.toNat, report := report,
             admissionMs := s.sched.msCount, admissionNo := s.sched.admissionNo,
             front := { served := 0, overridden := 0, skipped := skipped },
             rear := { served := 0, overridden := 0, skipped := 0 } }],
        pendingWindows := s.sched.pendingWindows ++ created.map fun c =>
          { corner := c, parent := .event e.tag.toNat, severity := e.severity.toNat, lead := takenLead e,
            length := takenLength e, trail := takenTrail e, cSoft := min 4000 e.cSoft.toNat,
            cFirm := min 4000 e.cFirm.toNat, pos := admissionPosition s e c, admissionMs := s.sched.msCount,
            admissionNo := s.sched.admissionNo },
        admissionNo := s.sched.admissionNo + 1 } ∧
      t.acq = s.acq ∧ t.law = s.law ∧ t.arb = s.arb ∧ t.drive = s.drive ∧ t.motion = s.motion ∧ t.sup = s.sup ∧
      t.cal = s.cal ∧
      answeredDone h
        [e.tag, BitVec.ofNat 8 report.code,
         BitVec.ofNat 8 (bit (.fl ∈ created) + 2 * bit (.fr ∈ created) + 4 * bit (.rl ∈ created)
           + 8 * bit (.rr ∈ created)),
         BitVec.ofNat 8 skipped,
         BitVec.ofNat 8 (bit (takenLength e ≠ 10 * e.length.toNat) + 2 * bit (takenLead e ≠ 10 * e.lead.toNat)
           + 4 * bit (takenTrail e ≠ 10 * e.trail.toNat) + 8 * bit (4000 < e.cSoft.toNat)
           + 16 * bit (4000 < e.cFirm.toNat))] t

/-- R51 to R58, R60 to R62: a travel step is `openedState` (moves, ms count, ends by age, skips, closes, opens in their order,
and R57's count of every retirement on its axle), then the settlement of the events left, in admission order. No window is
made; a window that stays keeps all but its position and, at an EARLY posting, its parent; afterwards none is PASSED and
every PENDING one is BEFORE. A PENDING window still beyond its lead stays PENDING, and an open one that is not PASSED stays
in the store where no window opens at its corner, but for those that end by age. With an empty table and store the step
advances the ms count and the carry and nothing else. -/
def Obligations.TravelStepMovesWindows : Prop :=
  (∀ s : State, s.held = false →
    ∃ batch u t, openedState batch s u ∧ t = u.sched.events.foldl settleEvent u ∧ exec .travelStep s = .next t ∧
      (∀ w ∈ s.sched.pendingWindows, endsByAge s w = false → (w.lead : Int) < w.pos - stepMm s →
        ∃ v ∈ t.sched.pendingWindows, carriedOver s w v) ∧
      (∀ c, ∀ w ∈ (s.arb.get c).held, endsByAge s w = false → ¬(movedWindow s w).isPassed →
        (∀ x ∈ s.sched.pendingWindows, x.corner = c → (x.lead : Int) < x.pos - stepMm s) →
        ∃ v ∈ (t.arb.get c).held, carriedOver s w v)) ∧
  (∀ s : State, s.held = false →
    ∃ t, exec .travelStep s = .next t ∧
      let moving := s.bodyFresh = true ∧ s.motion.direction = .forward
      let total := s.motion.speed * 10 + s.sched.carry
      let distance := if moving then total / 1000 else 0
      t.sched.msCount = s.sched.msCount + 1 ∧ t.sched.admissionNo = s.sched.admissionNo ∧
      t.sched.carry = (if moving then total % 1000 else s.sched.carry) ∧
      (∀ w ∈ t.windows, ∃ v ∈ s.windows, w = { v with pos := v.pos - distance, parent := w.parent } ∧
        (w.parent = v.parent ∨ w.parent = .orphan)) ∧
      (∀ w ∈ t.windows, ¬w.isPassed) ∧ (∀ w ∈ t.sched.pendingWindows, w.pos > w.lead) ∧
      (∃ posted, t.sched.completions = s.sched.completions ++ posted) ∧
      (∀ c, (t.arb.get c).minSeverity = (s.arb.get c).minSeverity ∧
        (t.arb.get c).reportRegLow = (s.arb.get c).reportRegLow ∧
        (t.arb.get c).reportSensor = (s.arb.get c).reportSensor) ∧
      t = { s with sched := t.sched, arb := t.arb }) ∧
  (∀ s : State, s.held = false → s.sched.events = [] → s.windows = [] → (∀ c, (s.arb.get c).selectionDue = false) →
    let moving := s.bodyFresh = true ∧ s.motion.direction = .forward
    exec .travelStep s = .next { s with
      sched := { s.sched with
        msCount := s.sched.msCount + 1,
        carry := if moving then (s.motion.speed * 10 + s.sched.carry) % 1000 else s.sched.carry } })

/-- R60 to R62 and R98: at the travel step at which an event's age equals max_age its windows are gone, it has left the
table, and the expiring events have posted EXPIRED in admission order ahead of every other posting of the step; an orphan
of that age is dropped, and posts nothing: every later record is one of an event of the table that does not expire. The two
rows are that step; without such an age at hand they change nothing (log entry 1, DESIGN CHOICE). -/
def Obligations.AgeExpiryEndsEventsAndOrphans : Prop :=
  ∀ s : State, s.held = false →
    let expired := s.sched.events.filter fun e => decide (expiresNow s e.admissionMs)
    let ended := fun t : State =>
      (∃ later,
        t.sched.completions =
          s.sched.completions ++ expired.map (recordOf .expired (s.sched.msCount + 1)) ++ later ∧
        ∀ r ∈ later, ∃ e ∈ s.sched.events, e.tag = r.tag ∧ ¬expiresNow s e.admissionMs) ∧
      (∀ e ∈ expired, e.tag ∉ t.sched.events.map Event.tag ∧ ∀ w ∈ t.windows, w.parent ≠ .event e.tag) ∧
      ∀ v ∈ t.windows, ∃ w ∈ s.windows,
        carriedOver s w v ∧ (w.parent = .orphan → ¬expiresNow s w.admissionMs)
    (∀ e ∈ s.sched.events, expiresNow s e.admissionMs →
      ∃ t, exec (.eventAgeExpiry e.tag) s = .next t ∧ exec .travelStep s = .next t ∧ ended t) ∧
    (∀ tag, (∀ e ∈ s.sched.events, e.tag = tag → ¬expiresNow s e.admissionMs) →
      exec (.eventAgeExpiry tag) s = .next s) ∧
    (∀ w ∈ s.windows, w.parent = .orphan → expiresNow s w.admissionMs →
      ∃ t, exec (.orphanAgeExpiry w.corner) s = .next t ∧ exec .travelStep s = .next t ∧ ended t) ∧
    ∀ c, (∀ w ∈ s.windows, w.parent = .orphan → w.corner = c → ¬expiresNow s w.admissionMs) →
      exec (.orphanAgeExpiry c) s = .next s

/-- R58 and R63 to R65: what the settlement of a travel step does with one event. A LATE or FORCED_LATE event posts when none
of its windows is left; an EARLY event waits for its front windows, then posts and leaves its rear windows as orphans where
the pool of 32 has room for all of them, else it becomes FORCED_LATE. R94 to R96: the record of an event by the cause of
the posting: the counts it covers, its age and its outcome. -/
def Obligations.SettlementAndRecords : Prop :=
  (∀ (s : State) (e : Event), e ∈ s.sched.events →
    let live := s.liveWindows e.tag
    let left := s.sched.events.filter fun x => decide (x.tag ≠ e.tag)
    (e.report ≠ .early → live ≠ [] → settleEvent s e = s) ∧
    (e.report ≠ .early → live = [] →
      settleEvent s e = { s with sched := { s.sched with
        events := left, completions := s.sched.completions ++ [recordOf .normal s.sched.msCount e] } }) ∧
    (e.report = .early → (∃ w ∈ live, w.corner.isFront = true) → settleEvent s e = s) ∧
    (e.report = .early → (∀ w ∈ live, w.corner.isFront = false) → live.length ≤ 32 - s.sched.orphanCount →
      (settleEvent s e).sched.events = left ∧
      (settleEvent s e).sched.completions = s.sched.completions ++ [recordOf .normal s.sched.msCount e] ∧
      (settleEvent s e).sched.orphanCount = s.sched.orphanCount + live.length ∧
      (settleEvent s e).windows =
        s.windows.map fun w => if w.parent = .event e.tag then { w with parent := .orphan } else w) ∧
    (e.report = .early → (∀ w ∈ live, w.corner.isFront = false) → 32 - s.sched.orphanCount < live.length →
      settleEvent s e = { s with sched := { s.sched with
        events := s.sched.events.map fun x => if x.tag = e.tag then { x with report := .forcedLate } else x } })) ∧
  (∀ (e : Event) (now : Count) (cause : EndCause),
    let r := recordOf cause now e
    r.tag = e.tag ∧ r.report = e.report ∧ r.age = min 65535 (now - e.admissionMs).toNat ∧
    (e.report = .early →
      r.served = e.front.served ∧ r.overridden = e.front.overridden ∧ r.skipped = e.front.skipped) ∧
    (e.report ≠ .early →
      r.served = e.front.served + e.rear.served ∧ r.overridden = e.front.overridden + e.rear.overridden ∧
      r.skipped = e.front.skipped + e.rear.skipped) ∧
    (cause = .cancelled → r.outcome = .cancelled) ∧ (cause = .flushed → r.outcome = .flushed) ∧
    (cause = .expired → r.outcome = .expired) ∧
    (cause = .normal → 1 ≤ r.served → r.overridden = 0 → r.outcome = .applied) ∧
    (cause = .normal → 1 ≤ r.served → 1 ≤ r.overridden → r.outcome = .partly) ∧
    (cause = .normal → r.served = 0 → r.outcome = .notApplied))

/-- R74 to R77: a window reported open at a corner: SKIPPED below the minimum severity or with preview disabled, ACTIVE
where no window is, preempting a lower severity with the bottom of a full stack OVERRIDDEN, else waiting at the end. -/
def Obligations.ArbiterOpens : Prop :=
  ∀ (enabled : Bool) (w : Window) (a : Arbiter),
    (w.severity < a.minSeverity ∨ enabled = false → openWindow enabled w a = (a, [⟨w, .skipped⟩])) ∧
    (a.minSeverity ≤ w.severity → enabled = true →
      let entered : HeldWindow := { win := w, order := a.openCount }
      (a.active = none →
        openWindow enabled w a = ({ a with active := some entered, openCount := a.openCount + 1 }, [])) ∧
      (∀ x, a.active = some x → w.severity ≤ x.win.severity →
        openWindow enabled w a =
          ({ a with waiting := a.waiting ++ [entered], openCount := a.openCount + 1 }, [])) ∧
      (∀ x, a.active = some x → x.win.severity < w.severity →
        (a.stack.length < 3 →
          openWindow enabled w a =
            ({ a with active := some entered, stack := a.stack ++ [x], openCount := a.openCount + 1 }, [])) ∧
        (∀ bottom y z, a.stack = [bottom, y, z] →
          openWindow enabled w a =
            ({ a with active := some entered, stack := [y, z, x], openCount := a.openCount + 1 },
             [⟨bottom.win, .overridden⟩]))))

/-- R81: selection at a corner without an ACTIVE window: the stack top where no waiting window is more severe, else the
first of the most severe waiting windows, else none; nothing else moves and the selection-due mark is clear. -/
def Obligations.SelectionPicksTheCandidate : Prop :=
  ∀ a : Arbiter, a.active = none →
    (∀ below top, a.stack = below ++ [top] → (∀ x ∈ a.waiting, x.win.severity ≤ top.win.severity) →
      select a = { a with active := some top, stack := below, selectionDue := false }) ∧
    (∀ before x after, a.waiting = before ++ x :: after →
      (∀ y ∈ before, y.win.severity < x.win.severity) → (∀ y ∈ after, y.win.severity ≤ x.win.severity) →
      (∀ top, a.stack.getLast? = some top → top.win.severity < x.win.severity) →
      select a = { a with active := some x, waiting := before ++ after, selectionDue := false }) ∧
    (a.stack = [] → a.waiting = [] → select a = { a with selectionDue := false })

/-- R55, R78 to R80, R82 and R83: how windows leave arbitration. At the closes of a travel step the passed STACKED and WAITING
windows leave their places OVERRIDDEN in admission order; then the ACTIVE window, where it has passed, leaves SERVED and a
selection follows, as it does where the mark is set. At a removal a WAITING or STACKED window leaves its place and the
order of the others stays; an ACTIVE window leaves a selection, at once for a cancellation, or the mark at an expiry. -/
def Obligations.ArbiterDepartures : Prop :=
  (∀ (next : Count) (a : Arbiter),
    let kept : Arbiter := { a with
      stack := a.stack.filter fun h => decide (¬h.win.isPassed),
      waiting := a.waiting.filter fun h => decide (¬h.win.isPassed) }
    let lost := ((a.stack ++ a.waiting).filter fun h => decide h.win.isPassed).map HeldWindow.win
    (∀ x, a.active = some x → x.win.isPassed → (closePassed next a).1 = select { kept with active := none }) ∧
    (∀ x, a.active = some x → ¬x.win.isPassed →
      (closePassed next a).1 = { kept with selectionDue := false }) ∧
    (a.active = none → a.selectionDue = true → (closePassed next a).1 = select kept) ∧
    (a.active = none → a.selectionDue = false → (closePassed next a).1 = kept) ∧
    ∃ inOrder : List Window, inOrder.Perm lost ∧
      inOrder.Pairwise (fun v w => (next - w.admissionNo).toNat ≤ (next - v.admissionNo).toNat) ∧
      (closePassed next a).2 =
        inOrder.map (fun w => ⟨w, .overridden⟩)
          ++ (a.active.toList.filter fun h => decide h.win.isPassed).map fun h => ⟨h.win, .served⟩) ∧
  (∀ (p : Window → Bool) (a : Arbiter),
    let kept : Arbiter := { a with
      stack := a.stack.filter fun h => !p h.win
      waiting := a.waiting.filter fun h => !p h.win }
    (∀ x, a.active = some x → p x.win = true →
      removeWindows p false a = select { kept with active := none } ∧
      removeWindows p true a = { kept with active := none, selectionDue := true }) ∧
    ((∀ x, a.active = some x → p x.win = false) →
      removeWindows p false a = kept ∧ removeWindows p true a = kept))

/-! ## Requests to the scheduler and the corners -/

/-- R67, R68 and R82: CANCEL_EVENT. The event's live windows leave the store and its record joins the list CANCELLED; at a
corner that held one of them the others keep their places, a selection following at once where it was ACTIVE; no other
corner's arbitration changes; a tag of 24 or more, of a record and of nothing is refused. -/
def Obligations.CancelEndsAnEvent : Prop :=
  ∀ (h : LinkHeader) (tag : Byte) (s : State), s.held = false → fits .cancelEvent h →
    s.sup.part = .standby ∨ s.sup.part = .active ∨ s.sup.part = .stopping →
    (24 ≤ tag.toNat → refusedWith .badTag .cancelEvent h (.cancelEvent h tag) s) ∧
    (tag.toNat < 24 → (∀ e ∈ s.sched.events, e.tag ≠ tag.toNat) →
      (tag.toNat ∈ s.sched.completions.map Completion.tag →
        refusedWith .alreadyDone .cancelEvent h (.cancelEvent h tag) s) ∧
      (tag.toNat ∉ s.sched.completions.map Completion.tag →
        refusedWith .notFound .cancelEvent h (.cancelEvent h tag) s)) ∧
    (∀ before e after, tag.toNat < 24 → s.sched.events = before ++ e :: after → e.tag = tag.toNat →
      (∀ x ∈ before ++ after, x.tag ≠ tag.toNat) →
      ∃ t, exec (.cancelEvent h tag) s = .next t ∧ frameTaken .cancelEvent h s t ∧
        answeredDone h [tag, BitVec.ofNat 8 (s.liveWindows e.tag).length] t ∧
        t.sched = { s.sched with
          events := before ++ after,
          pendingWindows := s.sched.pendingWindows.filter fun w => decide (w.parent ≠ .event e.tag),
          completions := s.sched.completions ++ [recordOf .cancelled s.sched.msCount e] } ∧
        (∀ c, t.arb.get c = removeWindows (ofEvent e.tag) false (s.arb.get c) ∧
          (∀ w ∈ (t.arb.get c).held, w.parent ≠ .event e.tag) ∧
          ((∀ w ∈ (s.arb.get c).held, w.parent ≠ .event e.tag) → t.arb.get c = s.arb.get c)) ∧
        t.acq = s.acq ∧ t.law = s.law ∧ t.drive = s.drive ∧ t.motion = s.motion ∧ t.sup = s.sup ∧ t.cal = s.cal)

/-- R69 and R70: FLUSH_PREVIEW in ACTIVE flushes and answers with the completions posted and the orphans dropped; in
STANDBY and STOPPING it is refused WRONG_STATE. -/
def Obligations.FlushPreviewFlushes : Prop :=
  ∀ (h : LinkHeader) (s : State), s.held = false → fits .flushPreview h →
    (s.sup.part = .active →
      ∃ t, exec (.flushPreview h) s = .next t ∧ frameTaken .flushPreview h s t ∧ flushed s t ∧
        answeredDone h
          [BitVec.ofNat 8 s.sched.events.length,
           BitVec.ofNat 8 (s.windows.filter fun w => decide (w.parent = .orphan)).length] t ∧
        t.acq = s.acq ∧ t.law = s.law ∧ t.drive = s.drive ∧ t.motion = s.motion ∧ t.sup = s.sup ∧ t.cal = s.cal) ∧
    (s.sup.part = .standby ∨ s.sup.part = .stopping →
      refusedWith .wrongState .flushPreview h (.flushPreview h) s)

/-- R99 and R100: COLLECT outside START removes the oldest records, up to the taken count of 1 to 4, and returns them with
the number returned, the number that remains and the clamped indication; its tags are free from then. -/
def Obligations.CollectRemovesTheOldest : Prop :=
  ∀ (h : LinkHeader) (count : Byte) (s : State), s.held = false → fits .collect h → s.sup.part ≠ .start →
    let taken := max 1 (min 4 count.toNat)
    let gone := s.sched.completions.take taken
    ∃ t, exec (.collect h count) s = .next t ∧ frameTaken .collect h s t ∧
      t.sched = { s.sched with completions := s.sched.completions.drop taken } ∧
      (∃ slots : List Byte, slots = gone.flatMap Completion.bytes ++ List.replicate (32 - 8 * gone.length) 0 ∧
        answeredDone h
          ([BitVec.ofNat 8 gone.length, BitVec.ofNat 8 (s.sched.completions.length - gone.length),
            if taken = count.toNat then 0 else 1] ++ slots) t) ∧
      t.acq = s.acq ∧ t.law = s.law ∧ t.arb = s.arb ∧ t.drive = s.drive ∧ t.motion = s.motion ∧ t.sup = s.sup ∧
      t.cal = s.cal

/-- R89, R137 and R138: CORNER_OPTIONS in STANDBY and ACTIVE replaces the options of all four corners, sets FAULT_NEW where
a summary goes from clear to set, and answers with the clamped indications and the options in force; in STOPPING it is
refused WRONG_STATE. -/
def Obligations.CornerOptionsReplaceAllCorners : Prop :=
  ∀ (h : LinkHeader) (o : PerCorner OptionFields) (s : State), s.held = false → fits .cornerOptions h →
    (s.sup.part = .standby ∨ s.sup.part = .active →
      ∃ t, exec (.cornerOptions h o) s = .next t ∧ frameTaken .cornerOptions h s t ∧
        let taken := fun c => max 1 (min 8 (o.get c).minSeverity.toNat)
        let clamped := fun c => bit (taken c ≠ (o.get c).minSeverity.toNat)
        let inForce := fun c => [BitVec.ofNat 8 (taken c), (o.get c).mask &&& 3]
        (∀ c, t.arb.get c = { s.arb.get c with
          minSeverity := taken c, reportRegLow := (o.get c).mask.getLsbD 0,
          reportSensor := (o.get c).mask.getLsbD 1 }) ∧
        t.sup = { s.sup with
          faultNew := s.sup.faultNew || Corner.all.any fun c => !s.faultSummary c && t.faultSummary c } ∧
        answeredDone h
          ([BitVec.ofNat 8 (clamped .fl + 2 * clamped .fr + 4 * clamped .rl + 8 * clamped .rr)]
            ++ inForce .fl ++ inForce .fr ++ inForce .rl ++ inForce .rr) t ∧
        t.acq = s.acq ∧ t.law = s.law ∧ t.drive = s.drive ∧ t.motion = s.motion ∧ t.sched = s.sched ∧
        t.cal = s.cal) ∧
    (s.sup.part = .stopping → refusedWith .wrongState .cornerOptions h (.cornerOptions h o) s)

/-- R41 and R42: READ_CORNER answers with the snapshot of the corner named, laid out as section 11.4 gives, and changes no
block; i_meas, D and the regulation status are the most recent drive period's (R139; that they stay so over a transition
between two periods is the model's reading of R43, log entry 26); a corner number of 4 or more is refused BAD_VALUE. -/
def Obligations.ReadCornerShowsTheCorner : Prop :=
  ∀ (h : LinkHeader) (number : Byte) (s : State), s.held = false → fits .readCorner h → s.sup.part ≠ .start →
    (4 ≤ number.toNat → refusedWith .badValue .readCorner h (.readCorner h number) s) ∧
    (∀ c : Corner, c.index = number.toNat →
      ∃ t, exec (.readCorner h number) s = .next t ∧ frameTaken .readCorner h s t ∧ blocksKept s t ∧
        let q := s.acq.get c
        let l := s.law.get c
        let d := s.drive.get c
        let a := s.arb.get c
        ∃ window phase : Byte,
          (a.active = none → window = 0xFF ∧ phase = 0) ∧
          (∀ x, a.active = some x →
            (∀ tag, x.win.parent = .event tag → window = BitVec.ofNat 8 tag) ∧
            (x.win.parent = .orphan → window = 0xFE) ∧
            (0 < x.win.pos → x.win.pos ≤ x.win.lead → phase = 1) ∧
            (-(x.win.length : Int) < x.win.pos → x.win.pos ≤ 0 → phase = 2) ∧
            (¬x.win.isPassed → x.win.pos ≤ -(x.win.length : Int) → phase = 3)) ∧
          answeredDone h
            ([number] ++ intBytes q.x ++ intBytes q.vRel ++ intBytes l.vBody ++ natBytes l.cLaw ++ natBytes l.cOut
              ++ [BitVec.ofNat 8 l.band] ++ natBytes l.iTgt ++ natBytes d.iMeas ++ natBytes d.shownDuty
              ++ [BitVec.ofNat 8 d.state.code, BitVec.ofNat 8 d.retry, BitVec.ofNat 8 d.shownStatus.code,
                  BitVec.ofNat 8 (bit q.sensor + 2 * bit d.regLow + 4 * bit l.stale + 8 * bit (s.faultSummary c)),
                  window, phase, BitVec.ofNat 8 a.stack.length, BitVec.ofNat 8 a.waiting.length]) t)

/-- R134 and R135: CLEAR_FAULTS in STANDBY and LIMP. A named stage in a fault state goes to OFF, and on to REGULATING where
it is selected with DRVEN high; REG_LOW and the two run counts of every named stage are cleared; the reply gives the four
drive states after it and the faults cleared. -/
def Obligations.ClearFaultsReleasesNamedStages : Prop :=
  ∀ (h : LinkHeader) (corners : Byte) (s : State), s.held = false → fits .clearFaults h →
    (s.sup.part = .active ∨ s.sup.part = .stopping →
      refusedWith .wrongState .clearFaults h (.clearFaults h corners) s) ∧
    (s.sup.part = .standby ∨ s.sup.part = .limp →
      (corners &&& 0x0F = 0 → refusedWith .badValue .clearFaults h (.clearFaults h corners) s) ∧
      (corners &&& 0x0F ≠ 0 →
        ∃ t, exec (.clearFaults h corners) s = .next t ∧ frameTaken .clearFaults h s t ∧
          let fault := fun c => (s.drive.get c).state = .faultOpen ∨ (s.drive.get c).state = .faultShort
          (∀ c, corners.getLsbD c.index = false → t.drive.get c = s.drive.get c) ∧
          (∀ c, corners.getLsbD c.index = true → ¬fault c →
            t.drive.get c = { s.drive.get c with regLow := false, lowRun := 0, inRun := 0 }) ∧
          (∀ c, corners.getLsbD c.index = true → fault c → s.sup.source.get c ≠ .none → s.drven = true →
            t.drive.get c = { switchedOn (s.drive.get c) with regLow := false }) ∧
          (∀ c, corners.getLsbD c.index = true → fault c → s.sup.source.get c = .none ∨ s.drven = false →
            t.drive.get c =
              { s.drive.get c with state := .off, regLow := false, lowRun := 0, inRun := 0 }) ∧
          (∃ cleared : Byte,
            (∀ c : Corner, cleared.getLsbD c.index = true ↔ corners.getLsbD c.index = true ∧ fault c) ∧
            cleared &&& 0xF0 = 0 ∧
            answeredDone h
              [BitVec.ofNat 8 t.drive.fl.state.code, BitVec.ofNat 8 t.drive.fr.state.code,
               BitVec.ofNat 8 t.drive.rl.state.code, BitVec.ofNat 8 t.drive.rr.state.code, cleared] t) ∧
          t.acq = s.acq ∧ t.law = s.law ∧ t.arb = s.arb ∧ t.motion = s.motion ∧ t.sched = s.sched ∧ t.sup = s.sup ∧
          t.cal = s.cal))

/-! ## Drive stages -/

/-- R124 to R127 and R131: a drive period that starts in REGULATING, below the overcurrent threshold and not ending in
FAULT_OPEN: loop update, status, run counts and REG_LOW, open-detect count, clean-run and retry count; the rest of the
part is as stated by `stageStepped`. -/
def Obligations.RegulatingPeriodRunsTheLoop : Prop :=
  ∀ (c : Corner) (current : Nat) (s : State), s.held = false →
    let d := s.drive.get c
    let measured := min 4095 current
    let e := loopError d measured
    let duty := nextDuty s d measured
    let openMet := duty = 950 ∧ 200 ≤ d.latch ∧ measured < 30
    let low := duty = 950 ∧ 20 < e
    let inBand := e.natAbs ≤ 20
    let status : RegStatus :=
      if inBand then .inBand else if low then .low else if duty = 0 ∧ e < -20 then .high else .tracking
    d.state = .regulating → measured ≤ overcurrentThreshold s.cal.working → (openMet → d.openCount + 1 < 50) →
    d.cleanRun < 10000 ∨ d.retry = 0 →
    ∃ t, exec (.drivePeriod c current) s = .next t ∧ stageStepped c s t ∧
      t.drive.get c =
        { state := .regulating, duty := duty, iMeas := measured, target := d.latch, latch := d.latch,
          status := status, shownDuty := duty, shownStatus := status,
          lowRun := if low then min 100 (d.lowRun + 1) else 0,
          inRun := if inBand then min 100 (d.inRun + 1) else 0,
          regLow := if low ∧ 100 ≤ d.lowRun + 1 then true else if inBand ∧ 100 ≤ d.inRun + 1 then false else d.regLow,
          openCount := if openMet then d.openCount + 1 else 0,
          retry := if 10000 ≤ d.cleanRun + 1 then 0 else d.retry,
          wait := d.wait,
          cleanRun := min 10000 (d.cleanRun + 1) }

/-- R128, R129, R132 and R152: an overcurrent period cuts the drive; with a retry left the stage waits, else it holds
FAULT_SHORT. The period that meets the open-coil test for the fiftieth time in a row ends in FAULT_OPEN, with D, status,
counts and retry count 0 and REG_LOW as the period's status left it; the row OPEN_COIL_DETECTED is that period
(the model's choice, log entry 1, DESIGN CHOICE). The supervisor takes the hard-fault event of either. -/
def Obligations.HardFaultsCutTheDrive : Prop :=
  (∀ (c : Corner) (current : Nat) (s : State), s.held = false →
    let d := s.drive.get c
    let measured := min 4095 current
    let cut : Drive := { d with
      duty := 0, iMeas := measured, target := d.latch, status := .none, shownDuty := 0, shownStatus := .none,
      lowRun := 0, inRun := 0, openCount := 0, cleanRun := 0 }
    d.state = .regulating → overcurrentThreshold s.cal.working < measured →
    (d.retry + 1 ≤ retryLimit s.cal.working →
      ∃ t, exec (.drivePeriod c current) s = .next t ∧ stageStepped c s t ∧
        t.drive.get c = { cut with state := .overloadWait, retry := d.retry + 1, wait := 0 }) ∧
    (retryLimit s.cal.working < d.retry + 1 →
      ∃ u t, stageStepped c s u ∧ u.drive.get c = { cut with state := .faultShort, retry := 0 } ∧
        exec (.drivePeriod c current) s = .next t ∧ faultHanded u t)) ∧
  (∀ (c : Corner) (current : Nat) (s : State), s.held = false →
    let d := s.drive.get c
    let measured := min 4095 current
    d.state = .regulating → measured ≤ overcurrentThreshold s.cal.working → nextDuty s d measured = 950 →
    200 ≤ d.latch → measured < 30 → d.openCount = 49 →
    ∃ u t, stageStepped c s u ∧
      u.drive.get c = { d with
        state := .faultOpen, duty := 0, iMeas := measured, target := d.latch, status := .none, shownDuty := 0,
        shownStatus := .none, lowRun := 0, inRun := 0, regLow := d.regLow || decide (100 ≤ d.lowRun + 1), openCount := 0, retry := 0, cleanRun := 0 } ∧
      exec (.drivePeriod c current) s = .next t ∧ exec (.openCoilDetected c current) s = .next t ∧ faultHanded u t)

/-- R119, R130 and R133: drive periods outside REGULATING measure, read the latch and drive nothing; OVERLOAD_WAIT counts,
and the period that brings the count to ten times the retry delay runs as the first REGULATING period, which is the row
RETRY_TIMER_EXPIRY. The rows of a stage in OFF or a fault state change nothing (log entry 1). -/
def Obligations.WaitingAndIdlePeriods : Prop :=
  ∀ (c : Corner) (current : Nat) (s : State), s.held = false →
    let d := s.drive.get c
    let measured : Drive := { d with
      iMeas := min 4095 current, target := d.latch, duty := 0, status := .none, shownDuty := 0, shownStatus := .none }
    (d.state = .off ∨ d.state = .faultOpen ∨ d.state = .faultShort →
      (∃ t, exec (.drivePeriod c current) s = .next t ∧ stageStepped c s t ∧ t.drive.get c = measured) ∧
      exec (.retryTimerExpiry c current) s = .next s ∧ exec (.openCoilDetected c current) s = .next s ∧
      exec (.regLowSet c current) s = .next s ∧ exec (.regLowClear c current) s = .next s) ∧
    (d.state = .overloadWait → d.wait + 1 < 10 * retryDelay s.cal.working →
      ∃ t, exec (.drivePeriod c current) s = .next t ∧ stageStepped c s t ∧
        t.drive.get c = { measured with wait := d.wait + 1 }) ∧
    (d.state = .overloadWait → d.wait + 1 = 10 * retryDelay s.cal.working →
      exec (.retryTimerExpiry c current) s = exec (.drivePeriod c current) (s.setDrive c (switchedOn d)) ∧
      exec (.drivePeriod c current) s = exec (.retryTimerExpiry c current) s ∧
      (min 4095 current ≤ overcurrentThreshold s.cal.working →
        ∃ t, exec (.retryTimerExpiry c current) s = .next t ∧ (t.drive.get c).state = .regulating ∧
          (t.drive.get c).wait = 0 ∧ (t.drive.get c).retry = d.retry ∧ (t.drive.get c).cleanRun = 1))

/-- R127, R131 and R137: the drive periods that set REG_LOW, clear it, and return the retry count to 0. That the rows
REG_LOW_SET, REG_LOW_CLEAR and CLEAN_RUN_EXPIRY are those periods is the model's choice (log entry 1, DESIGN CHOICE). -/
def Obligations.CountedDrivePeriods : Prop :=
  ∀ (c : Corner) (current : Nat) (s : State), s.held = false →
    let d := s.drive.get c
    let measured := min 4095 current
    let e := loopError d measured
    d.state = .regulating → measured ≤ overcurrentThreshold s.cal.working → d.openCount < 49 →
    (nextDuty s d measured = 950 → 20 < e → d.lowRun = 99 → d.regLow = false →
      exec (.regLowSet c current) s = exec (.drivePeriod c current) s ∧
      ∃ t, exec (.regLowSet c current) s = .next t ∧ stageStepped c s t ∧ (t.drive.get c).regLow = true ∧
        (t.drive.get c).lowRun = 100 ∧ (t.drive.get c).state = .regulating ∧
        (s.faultSummary c = false → (s.arb.get c).reportRegLow = true → t.sup.faultNew = true)) ∧
    (e.natAbs ≤ 20 → d.inRun = 99 → d.regLow = true →
      exec (.regLowClear c current) s = exec (.drivePeriod c current) s ∧
      ∃ t, exec (.regLowClear c current) s = .next t ∧ stageStepped c s t ∧ (t.drive.get c).regLow = false ∧
        (t.drive.get c).inRun = 100 ∧ (t.drive.get c).state = .regulating) ∧
    (d.cleanRun = 9999 →
      exec (.cleanRunExpiry c current) s = exec (.drivePeriod c current) s ∧
      ∃ t, exec (.cleanRunExpiry c current) s = .next t ∧ stageStepped c s t ∧ (t.drive.get c).retry = 0 ∧
        (t.drive.get c).cleanRun = 10000 ∧ (t.drive.get c).state = .regulating)

/-! ## Supervisor -/

/-- R144: GO_ACTIVE in each part state but START: the checks in STANDBY in their order, the entry from STANDBY, the return
from STOPPING, nothing in ACTIVE, the refusal in LIMP. -/
def Obligations.GoActiveByPartState : Prop :=
  ∀ (h : LinkHeader) (s : State), s.held = false → fits .goActive h →
    (s.sup.part = .limp → refusedWith .limpActive .goActive h (.goActive h) s) ∧
    (s.sup.part = .standby →
      (¬imageIsValid s → refusedWith .calInvalid .goActive h (.goActive h) s) ∧
      (imageIsValid s → s.cal.store = .busy → refusedWith .busy .goActive h (.goActive h) s) ∧
      (imageIsValid s → s.cal.store = .idle → s.drven = false → refusedWith .notReady .goActive h (.goActive h) s) ∧
      (imageIsValid s → s.cal.store = .idle → s.drven = true →
        ∃ t, exec (.goActive h) s = .next t ∧ frameTaken .goActive h s t ∧ answeredDone h [] t ∧
          t.sup = { s.sup with part := .active, source := PerCorner.replicate .law } ∧
          (∀ c, t.law.get c = { s.law.get c with cPrev := 0 }) ∧
          (∀ c, t.drive.get c =
            if (s.drive.get c).state = .off then switchedOn (s.drive.get c) else s.drive.get c) ∧
          t.acq = s.acq ∧ t.arb = s.arb ∧ t.motion = s.motion ∧ t.sched = s.sched ∧ t.cal = s.cal)) ∧
    (s.sup.part = .active →
      ∃ t, exec (.goActive h) s = .next t ∧ frameTaken .goActive h s t ∧ answeredDone h [] t ∧ blocksKept s t) ∧
    (s.sup.part = .stopping →
      ∃ t, exec (.goActive h) s = .next t ∧ frameTaken .goActive h s t ∧ answeredDone h [] t ∧
        t.sup = { s.sup with part := .active, stoppingTimer := none } ∧
        t.acq = s.acq ∧ t.law = s.law ∧ t.arb = s.arb ∧ t.drive = s.drive ∧ t.motion = s.motion ∧ t.sched = s.sched ∧
        t.cal = s.cal)

/-- R146: GO_STANDBY in each part state: BUSY in START, nothing in STANDBY and STOPPING, from ACTIVE the entry to STOPPING
with the flush and the timer at 0 ms, from LIMP the entry to STANDBY. -/
def Obligations.GoStandbyByPartState : Prop :=
  ∀ (h : LinkHeader) (s : State), s.held = false → fits .goStandby h →
    (s.sup.part = .start → refusedWith .busy .goStandby h (.goStandby h) s) ∧
    (s.sup.part = .standby ∨ s.sup.part = .stopping →
      ∃ t, exec (.goStandby h) s = .next t ∧ frameTaken .goStandby h s t ∧ answeredDone h [] t ∧ blocksKept s t) ∧
    (s.sup.part = .active →
      ∃ t, exec (.goStandby h) s = .next t ∧ frameTaken .goStandby h s t ∧ answeredDone h [] t ∧
        t.sup = { s.sup with part := .stopping, stoppingTimer := some 0 } ∧ flushed s t ∧
        t.acq = s.acq ∧ t.law = s.law ∧ t.drive = s.drive ∧ t.motion = s.motion ∧ t.cal = s.cal) ∧
    (s.sup.part = .limp →
      ∃ t, exec (.goStandby h) s = .next t ∧ frameTaken .goStandby h s t ∧ answeredDone h [] t ∧ standbyEntered s t)

/-- R149: ENTER_LIMP: BUSY in START, WRONG_STATE in STANDBY, the entry to LIMP with reason REQUESTED from ACTIVE and
STOPPING, REQUESTED added to the reasons in LIMP. -/
def Obligations.EnterLimpByPartState : Prop :=
  ∀ (h : LinkHeader) (s : State), s.held = false → fits .enterLimp h →
    (s.sup.part = .start → refusedWith .busy .enterLimp h (.enterLimp h) s) ∧
    (s.sup.part = .standby → refusedWith .wrongState .enterLimp h (.enterLimp h) s) ∧
    (s.sup.part = .active ∨ s.sup.part = .stopping →
      ∃ t, exec (.enterLimp h) s = .next t ∧ frameTaken .enterLimp h s t ∧ answeredDone h [] t ∧
        limpEnteredWith .requested s t) ∧
    (s.sup.part = .limp →
      ∃ t, exec (.enterLimp h) s = .next t ∧ frameTaken .enterLimp h s t ∧ answeredDone h [] t ∧
        blocksKept (reasonAdded .requested s) t)

/-- R37 and R154: RESUME: NOT_READY in LIMP while DRVEN is low or a hard fault is held; else the entry to ACTIVE with the
reasons cleared, every source law, latches and drive states kept, and c_out and c_prev of each corner at the forward map of
its applied current at the band it holds. Outside LIMP it is refused. -/
def Obligations.ResumeReturnsToTheLaw : Prop :=
  ∀ (h : LinkHeader) (s : State), s.held = false → fits .resume h →
    let fault := ∃ c, (s.drive.get c).state = .faultOpen ∨ (s.drive.get c).state = .faultShort
    (s.sup.part = .start → refusedWith .busy .resume h (.resume h) s) ∧
    (s.sup.part = .standby ∨ s.sup.part = .active ∨ s.sup.part = .stopping →
      refusedWith .wrongState .resume h (.resume h) s) ∧
    (s.sup.part = .limp → s.drven = false ∨ fault → refusedWith .notReady .resume h (.resume h) s) ∧
    (s.sup.part = .limp → s.drven = true → ¬fault →
      ∃ t, exec (.resume h) s = .next t ∧ frameTaken .resume h s t ∧ answeredDone h [] t ∧
        t.sup = { s.sup with
          part := .active, limpFirst := none, limpSet := LimpReasons.empty, source := PerCorner.replicate .law } ∧
        (∀ c,
          let applied := if (s.drive.get c).state = .regulating then limpCurrent s.cal.working c else 0
          let value := forwardMap (mapPoint s.cal.working c (s.law.get c).band) applied
          t.law.get c = { s.law.get c with cOut := value, cPrev := value }) ∧
        t.acq = s.acq ∧ t.arb = s.arb ∧ t.drive = s.drive ∧ t.motion = s.motion ∧ t.sched = s.sched ∧ t.cal = s.cal)

/-- R121 to R123 and R150: a fall of DRVEN takes every driving stage to OFF and forces the outputs off; the supervisor
takes ACTIVE to LIMP with reason ENA_LOW and STOPPING to STANDBY, and adds ENA_LOW in LIMP. A rise starts every selected
stage in OFF and does nothing else. That a level that is already there is no edge is the model's choice (log entry 8). -/
def Obligations.DrvenEdges : Prop :=
  ∀ s : State, s.held = false →
    (s.drven = true →
      ∃ u t, u = { s with drven := false, drive := u.drive } ∧
        (∀ c, u.drive.get c =
          if (s.drive.get c).state.driving then switchedOff (s.drive.get c) else s.drive.get c) ∧
        exec .drvenFall s = .next t ∧ (∀ c, t.outputDuty c = 0) ∧
        (s.sup.part = .start ∨ s.sup.part = .standby → t = u) ∧
        (s.sup.part = .active → limpEnteredWith .enaLow u t ∧ linkKept u t) ∧
        (s.sup.part = .stopping → standbyEntered u t ∧ linkKept u t) ∧
        (s.sup.part = .limp → t = reasonAdded .enaLow u)) ∧
    (s.drven = false →
      ∃ t, exec .drvenRise s = .next t ∧ t = { s with drven := true, drive := t.drive } ∧
        ∀ c, t.drive.get c =
          if (s.drive.get c).state = .off ∧ s.sup.source.get c ≠ .none then switchedOn (s.drive.get c)
          else s.drive.get c) ∧
    (s.drven = false → exec .drvenFall s = .next s) ∧ (s.drven = true → exec .drvenRise s = .next s)

/-- R151 and R168: the silence count goes up by 1 and stays at 501; the tick that takes it past limp_timeout with a VALID
image is the link-silence expiry, at which ACTIVE goes to LIMP with reason LINK_LOST and LIMP takes the reason. The row
LINK_SILENCE_EXPIRY is that tick, and no other tick (log entry 1). -/
def Obligations.SilenceCountAndExpiry : Prop :=
  ∀ s : State, s.held = false →
    let counted : State := { s with link := { s.link with silence := min 501 (s.link.silence + 1) } }
    let expires := imageIsValid s ∧ s.link.silence = limpTimeout s.cal.working
    (¬expires →
      exec .silenceTimerTick s = .next counted ∧ exec .linkSilenceExpiry s = .next s) ∧
    (expires →
      ∃ t, exec .silenceTimerTick s = .next t ∧ exec .linkSilenceExpiry s = .next t ∧
        (s.sup.part = .active → limpEnteredWith .linkLost counted t ∧ linkKept counted t) ∧
        (s.sup.part = .limp → t = reasonAdded .linkLost counted) ∧
        (s.sup.part ≠ .active → s.sup.part ≠ .limp → t = counted))

/-- R155, R156 and R167: STATUS in every part state: the payload and the notice-pending bit as they stood before, then the
four latched notices and the link-error latch are cleared; the last error cause and everything else stay. -/
def Obligations.StatusReportsAndClears : Prop :=
  ∀ (h : LinkHeader) (s : State), s.held = false → fits .status h →
    ∃ t, exec (.status h) s = .next t ∧
      t.sdo = shownBits s (8 * transactionBytes .status h) ∧
      t.modes = handMode h.mode s.modes ∧
      t.link =
        { receive := .idle, txPos := { byte := 0, bit := 0 }, errorLatch := false, lastCause := s.link.lastCause,
          silence := 0,
          reply :=
            { kind := .done, condition := ({ s with modes := t.modes } : State).conditionCode, seq := h.seq,
              payload :=
                [BitVec.ofNat 8 s.sup.part.code, s.sup.restartCause.code,
                 BitVec.ofNat 8 (limpFirstCode s.sup.limpFirst),
                 BitVec.ofNat 8 (bit s.sup.limpSet.requested + 2 * bit s.sup.limpSet.enaLow
                   + 4 * bit s.sup.limpSet.linkLost + 8 * bit s.sup.limpSet.cornerFault),
                 BitVec.ofNat 8 (bit s.sup.linkErr + 2 * bit s.sup.restarted + 4 * bit s.sup.limpEntered
                   + 8 * bit s.sup.faultNew + 16 * bit (s.sched.completions ≠ [])),
                 BitVec.ofNat 8 (bit (s.faultSummary .fl) + 2 * bit (s.faultSummary .fr) + 4 * bit (s.faultSummary .rl)
                   + 8 * bit (s.faultSummary .rr) + 128 * bit s.drven),
                 BitVec.ofNat 8 s.cal.imageState.code, BitVec.ofNat 8 s.cal.store.code,
                 BitVec.ofNat 8 s.cal.lastResult.code,
                 BitVec.ofNat 8 (128 * bit s.link.errorLatch + lastCauseCode s.link.lastCause)] } } ∧
      t = { s with
        sdo := t.sdo, modes := t.modes, link := t.link,
        sup := { s.sup with linkErr := false, restarted := false, limpEntered := false, faultNew := false } }

/-- R136, R155 and R157: the fault summary, the notice that pulls ATN low, and the condition code. -/
def Obligations.IndicationsFollowTheState : Prop :=
  ∀ s : State,
    (∀ c, s.faultSummary c = true ↔
      (s.drive.get c).state = .faultOpen ∨ (s.drive.get c).state = .faultShort ∨
      ((s.drive.get c).regLow = true ∧ (s.arb.get c).reportRegLow = true) ∨
      ((s.acq.get c).sensor = true ∧ (s.arb.get c).reportSensor = true)) ∧
    (s.atnLow = true ↔ s.sup.linkErr = true ∨ s.sup.restarted = true ∨ s.sup.limpEntered = true ∨
      s.sup.faultNew = true ∨ s.sched.completions ≠ []) ∧
    (s.conditionCode.extractLsb' 0 3).toNat = s.sup.part.code ∧
    (s.conditionCode.getLsbD 3 = true ↔ s.atnLow = true) ∧
    (s.conditionCode.getLsbD 4 = true ↔ s.bodyFresh = true) ∧
    (s.conditionCode.extractLsb' 5 2).toNat = s.modes.inForce.code ∧
    (s.conditionCode.getLsbD 7 = true ↔ imageIsValid s)

/-! ## Calibration store and link port -/

/-- R172 and R173: the sequence rule in STANDBY with the store IDLE and a canonical working image, but for the END segment: a
download begun, a segment accepted, a download aborted, and SEQUENCE, with the bytes written and the reply of each. The index
byte of the reply to an aborting segment is the model's choice (log entry 13, DEDUCED, unsafe). -/
def Obligations.SegmentsFollowTheSequenceRule : Prop :=
  ∀ (h : LinkHeader) (index flags : Byte) (data : Vector Byte 32) (s : State),
    s.held = false → fits .calSegment h → s.sup.part = .standby → s.cal.store = .idle → s.cal.working.wf →
    let i : Instr := .calSegment h index flags data
    let n := index.toNat
    let start := flags.getLsbD 0
    let finish := flags.getLsbD 1
    let inSequence := n = s.cal.expected ∧ (finish = true ↔ n = 9)
    (10 ≤ n → refusedWith .badValue .calSegment h i s) ∧
    (n < 10 → start = false → s.cal.download ≠ .receiving → refusedWith .sequence .calSegment h i s) ∧
    (n = 0 → start = true → finish = false →
      ∃ t, exec i s = .next t ∧ frameTaken .calSegment h s t ∧ blocksKept { s with cal := t.cal } t ∧
        t.cal = { s.cal with
          working := t.cal.working, imageState := .receiving, download := .receiving, expected := 1, accepted := 1 } ∧
        (∀ a, t.cal.working.read a = if a < 32 then data.toList.getD a 0 else s.cal.working.read a) ∧
        answeredDone h [index, 0, 1, 1, 1, 2, 0, 0] t) ∧
    (n < 9 → start = false → s.cal.download = .receiving → inSequence →
      ∃ t, exec i s = .next t ∧ frameTaken .calSegment h s t ∧ blocksKept { s with cal := t.cal } t ∧
        t.cal = { s.cal with
          working := t.cal.working, expected := s.cal.expected + 1, accepted := s.cal.accepted + 1 } ∧
        (∀ a, t.cal.working.read a =
          if 32 * n ≤ a ∧ a < 32 * n + 32 then data.toList.getD (a - 32 * n) 0 else s.cal.working.read a) ∧
        answeredDone h
          [index, 0, 1, BitVec.ofNat 8 (s.cal.expected + 1), BitVec.ofNat 8 (s.cal.accepted + 1),
           BitVec.ofNat 8 s.cal.imageState.code, 0, 0] t) ∧
    (n < 10 → (start = true ∧ (n ≠ 0 ∨ finish = true)) ∨
        (start = false ∧ s.cal.download = .receiving ∧ ¬inSequence) →
      ∃ t, exec i s = .next t ∧ frameTaken .calSegment h s t ∧ blocksKept { s with cal := t.cal } t ∧
        t.cal = { s.cal with imageState := .invalid, download := .aborted, expected := 0, accepted := 0 } ∧
        answeredDone h
          [index, 1, 2, BitVec.ofNat 8 s.cal.expected, BitVec.ofNat 8 s.cal.accepted, 0, 0, 0] t)

/-- R5, R173 and R174: the accepted END segment, over a canonical working image: written, then the image is validated; the
filters are unset where it passes, and the reply names the check that failed and the segment of its first failing byte,
segment 9 for the CRC (which check and which byte: ValidationMeansEveryCheck). -/
def Obligations.EndSegmentValidates : Prop :=
  ∀ (h : LinkHeader) (flags : Byte) (data : Vector Byte 32) (s : State),
    s.held = false → fits .calSegment h → s.sup.part = .standby → s.cal.store = .idle → s.cal.working.wf →
    s.cal.download = .receiving → s.cal.expected = 9 → flags.getLsbD 0 = false → flags.getLsbD 1 = true →
    ∃ t, exec (.calSegment h 9 flags data) s = .next t ∧ frameTaken .calSegment h s t ∧
      blocksKept { s with cal := t.cal, acq := t.acq } t ∧
      (∀ a, t.cal.working.read a =
        if 288 ≤ a ∧ a < 320 then data.toList.getD (a - 288) 0 else s.cal.working.read a) ∧
      let found := validate t.cal.working
      t.cal = { s.cal with
        working := t.cal.working, imageState := if found = .pass then .valid else .invalid, download := .idle,
        expected := 0, accepted := s.cal.accepted + 1 } ∧
      (∀ c, t.acq.get c = if found = .pass then { s.acq.get c with filter := none, vRel := 0 } else s.acq.get c) ∧
      answeredDone h
        ([9, 0, 0, 0, BitVec.ofNat 8 (s.cal.accepted + 1), if found = .pass then 1 else 0]
          ++ match found with
            | .pass => [1, 0]
            | .crc => [2, 9]
            | .range segment => [3, BitVec.ofNat 8 segment]
            | .order segment => [4, BitVec.ofNat 8 segment]
            | .edges segment => [5, BitVec.ofNat 8 segment]) t

/-- R174 and section 11.5: what an image that passes validation holds, and what validation finds in one that does not: the
first check that fails, in the order CRC, ranges, rows, edges, with the segment of the first failing byte, its offset
divided by 32. -/
def Obligations.ValidationMeansEveryCheck : Prop :=
  (∀ m : Memory,
    let crcFails := (crc16 (m.bytes 0 318)).toNat ≠ m.word 318
    (crcFails → validate m = .crc) ∧
    (∀ o, ¬crcFails → firstAt (outOfRange m) o → validate m = .range (o / 32)) ∧
    (∀ o, ¬crcFails → (∀ p, ¬outOfRange m p) → firstAt (outOfOrder m) o → validate m = .order (o / 32)) ∧
    (∀ o, ¬crcFails → (∀ p, ¬outOfRange m p) → (∀ p, ¬outOfOrder m p) → firstAt (edgeNotAbove m) o →
      validate m = .edges (o / 32)) ∧
    (¬crcFails → (∀ p, ¬outOfRange m p) → (∀ p, ¬outOfOrder m p) → (∀ p, ¬edgeNotAbove m p) →
      validate m = .pass)) ∧
  ∀ m : Memory, validate m = .pass ↔
    (crc16 (m.bytes 0 318)).toNat = m.word 318 ∧
    (2000 ≤ wheelbase m ∧ wheelbase m ≤ 3600) ∧
    (∀ c, 500 ≤ halfTrack m c ∧ halfTrack m c ≤ 900 ∧ 600 ≤ lever m c ∧ lever m c ≤ 2200) ∧
    (∀ c, travelZero m c ≤ 4095 ∧ 1 ≤ travelGain m c ∧ travelGain m c ≤ 4095) ∧
    (1 ≤ filterAlpha m ∧ filterAlpha m ≤ 16) ∧ (1 ≤ loopGain m ∧ loopGain m ≤ 64) ∧ (20 ≤ vGate m ∧ vGate m ≤ 200) ∧
    (20 ≤ edge1 m ∧ edge1 m < edge2 m ∧ edge2 m < edge3 m ∧ edge3 m ≤ 2000) ∧ (∀ c, limpCurrent m c ≤ 1650) ∧
    (1800 ≤ overcurrentThreshold m ∧ overcurrentThreshold m ≤ 2500) ∧ retryLimit m ≤ 7 ∧
    (10 ≤ bodyTimeout m ∧ bodyTimeout m ≤ 100) ∧ (10 ≤ retryDelay m ∧ retryDelay m ≤ 500) ∧
    (20 ≤ limpTimeout m ∧ limpTimeout m ≤ 500) ∧ (2000 ≤ maxAge m ∧ maxAge m ≤ 30000) ∧
    (∀ md : Mode,
      (modeRow m md).cMin ≤ (modeRow m md).cFallback ∧ (modeRow m md).cFallback ≤ (modeRow m md).cMax ∧
      (modeRow m md).cMax ≤ 4000 ∧ (modeRow m md).cSky ≤ 4000 ∧
      1 ≤ (modeRow m md).rise ∧ (modeRow m md).rise ≤ 500 ∧ 1 ≤ (modeRow m md).fall ∧ (modeRow m md).fall ≤ 500 ∧
      modeWord m md 12 ≤ 1) ∧
    ∀ (c : Corner) (band : Nat), band < 4 →
      (∀ k, k < 11 → mapPoint m c band k < mapPoint m c band (k + 1)) ∧ mapPoint m c band 11 ≤ 4000

/-- R165, R175, R178 and section 11.4: NOP, IDENT and CAL_READ are answered DONE and change no block; IDENT gives the codes
of the part with identifier, CRC and state of the working image as held, CAL_READ a segment of it; an index of 10 or more
is refused BAD_VALUE. -/
def Obligations.ReadingRequestsChangeNothing : Prop :=
  ∀ (h : LinkHeader) (index : Byte) (s : State), s.held = false →
    (fits .nop h →
      ∃ t, exec (.nop h) s = .next t ∧ frameTaken .nop h s t ∧ answeredDone h [] t ∧ blocksKept s t) ∧
    (fits .ident h →
      ∃ t, exec (.ident h) s = .next t ∧ frameTaken .ident h s t ∧ blocksKept s t ∧
        answeredDone h
          ([0x0D, 0x54, 0x02] ++ s.cal.working.bytes 0 2 ++ s.cal.working.bytes 318 2
            ++ [BitVec.ofNat 8 s.cal.imageState.code]) t) ∧
    (fits .calRead h → s.sup.part ≠ .start →
      (10 ≤ index.toNat → refusedWith .badValue .calRead h (.calRead h index) s) ∧
      (index.toNat < 10 →
        ∃ t, exec (.calRead h index) s = .next t ∧ frameTaken .calRead h s t ∧ blocksKept s t ∧
          answeredDone h
            ([index, BitVec.ofNat 8 s.cal.imageState.code]
              ++ (List.range 32).map fun k => s.cal.working.read (32 * index.toNat + k)) t))

/-- R176 and R177, over a canonical working image: CAL_STORE in STANDBY, and the end of a store: the nonvolatile image holds the bytes written, and the mark
is set and the result OK exactly where every byte that was read back agrees. Which cells do not take their byte is the
command's operand (log entry 10); without a running store the row changes nothing (log entry 1). R177, section 10.6 and log
entry 3: a reset while a store is BUSY ends the store at once, each byte of the nonvolatile image is then the old one or the
new one, the mark stays clear, and the START load that follows finds the image INVALID. -/
def Obligations.StoresBeginEndAndBreak : Prop :=
  (∀ (h : LinkHeader) (bad : List (Nat × Byte)) (s : State), s.held = false → s.cal.working.wf →
    (fits .calStore h → s.sup.part = .standby →
      (s.cal.store = .busy → refusedWith .busy .calStore h (.calStore h) s) ∧
      (s.cal.store = .idle → ¬imageIsValid s → refusedWith .calInvalid .calStore h (.calStore h) s) ∧
      (s.cal.store = .idle → imageIsValid s →
        ∃ t, exec (.calStore h) s = .next t ∧ frameTaken .calStore h s t ∧ answeredDone h [] t ∧
          blocksKept { s with cal := { s.cal with store := .busy, lastResult := .none, nvMark := false } } t)) ∧
    (s.cal.store = .busy →
      ∃ t, exec (.storeEnd bad) s = .next t ∧
        (∀ a, a < 320 → (∀ cell ∈ bad, cell.1 ≠ a) → t.cal.nv.read a = s.cal.working.read a) ∧
        (∀ a b, bad = [(a, b)] → a < 320 → t.cal.nv.read a = b) ∧
        let agree := ∀ a, a < 320 → t.cal.nv.read a = s.cal.working.read a
        (agree → t.cal = { s.cal with store := .idle, lastResult := .ok, nv := t.cal.nv, nvMark := true }) ∧
        (¬agree → t.cal = { s.cal with store := .idle, lastResult := .failed, nv := t.cal.nv, nvMark := false }) ∧
        t = { s with cal := t.cal }) ∧
    (s.cal.store = .idle → exec (.storeEnd bad) s = .next s)) ∧
  (∀ (s : State) (h : LinkHeader), s.cal.store = .busy → s.cal.nvMark = false → s.held = false → fits .restart h →
    ∀ i, i = .powerOnReset ∨ i = .brownoutReset ∨ i = .restart h →
      ∃ t, exec i s = .next t ∧ t.cal.store = .idle ∧ t.cal.lastResult = .none ∧ t.cal.nvMark = false ∧ t.cal.nv.wf ∧
        (∀ a, a < 320 → t.cal.nv.read a = s.cal.working.read a ∨ t.cal.nv.read a = s.cal.nv.read a) ∧
        ∃ u, exec .startLoadEnd { t with held := false } = .next u ∧ u.cal.imageState = .invalid ∧ u.sup.part = .standby)

/-- R158 and R163: the bits of a select period gathered into bytes, most significant bit first; and the first fault of the
frame received, in the order of the checks; a frame with none is valid. -/
def Obligations.FrameChecksInOrder : Prop :=
  (∀ bits : List Bool,
    let f := gatherBits bits
    frameBits f = bits.length ∧ f.bytes.length = bits.length / 8 ∧ f.extraBits.val = bits.length % 8 ∧
    ∀ k j, k < f.bytes.length → j < 8 → (f.bytes.getD k 0).getLsbD (7 - j) = bits.getD (8 * k + j) false) ∧
  ∀ f : RxFrame,
    (384 < frameBits f → frameFault f = some .overrun) ∧
    (frameBits f ≤ 384 → f.extraBits ≠ 0 → frameFault f = some .shortFrame) ∧
    (frameBits f ≤ 384 → f.extraBits = 0 → ∀ kind rest, f.bytes = kind :: rest →
      (kind = 0 ∨ 0x13 < kind.toNat → frameFault f = some .badKind) ∧
      (∀ k : RequestKind, k.code = kind →
        (f.bytes.length < 3 → frameFault f = some .shortFrame) ∧
        (∀ second len tail, rest = second :: len :: tail →
          (len.toNat ≠ k.payload → frameFault f = some .badLength) ∧
          (len.toNat = k.payload → f.bytes.length < k.payload + 5 → frameFault f = some .shortFrame) ∧
          (len.toNat = k.payload → k.payload + 5 ≤ f.bytes.length →
            (half (crc16 (f.bytes.take (k.payload + 3))) ≠ (f.bytes.drop (k.payload + 3)).take 2 →
              frameFault f = some .crc) ∧
            (half (crc16 (f.bytes.take (k.payload + 3))) = (f.bytes.drop (k.payload + 3)).take 2 →
              frameFault f = none)))))

/-- R23, R158 to R160 and R164: an invalid frame is not performed; every bit clocked shows a bit of the pending reply;
link-error latch, last cause and LINK_ERR are set, LINK_ERROR is the pending reply, and the silence count and the mode
selector are not reached. A request padded beyond 48 bytes is such a frame, with cause OVERRUN. A select period without a
clock edge is no transaction. In a select period in progress the bits received, the bits shown and the transmit position are
those of its clocks; that the row INVALID_FRAME shows such a period, and that the row is nothing to a valid frame, are the
model's choices (log entries 2 and 1). -/
def Obligations.InvalidFramesAreRejected : Prop :=
  ∀ s : State, s.held = false →
    let rejected := fun (clocks : Nat) (cause : LinkCause) (seq : BitVec 4) (t : State) =>
      t.sdo = shownBits s clocks ∧
      t.link =
        { receive := .idle, txPos := { byte := 0, bit := 0 }, errorLatch := true, lastCause := some cause,
          silence := s.link.silence,
          reply := { kind := .linkError, condition := t.conditionCode, seq := seq,
                     payload := [BitVec.ofNat 8 cause.code] } } ∧
      t = { s with sdo := t.sdo, link := t.link, sup := { s.sup with linkErr := true } }
    (∀ (bits : List Bool) (cause : LinkCause), bits ≠ [] → frameFault (gatherBits bits) = some cause →
      ∃ t, exec (.invalidFrame (.ended bits)) s = .next t ∧
        rejected bits.length cause (frameSeq (gatherBits bits)) t) ∧
    (∀ (i : Instr) (k : RequestKind) (h : LinkHeader) (payload : List Byte), requestParts i = some (k, h, payload) →
      ¬fits k h → ∃ t, exec i s = .next t ∧ rejected (8 * transactionBytes k h) .overrun h.seq t) ∧
    (∀ bits : List Bool, frameFault (gatherBits bits) = none → exec (.invalidFrame (.ended bits)) s = .next s) ∧
    exec (.invalidFrame (.ended [])) s =
      .next { s with sdo := [], link := { s.link with receive := .idle, txPos := { byte := 0, bit := 0 } } } ∧
    ∀ bits : List Bool,
      exec (.invalidFrame (.inProgress bits)) s = .next { s with
        sdo := shownBits s bits.length,
        link := { s.link with
          receive := .selected bits, txPos := { byte := bits.length / 8, bit := bits.length % 8 } } }

/-- R142 and R153: in START every request but NOP, STATUS, IDENT and RESTART is refused BUSY, and in LIMP the requests
that would change the preview schedule, the options, the images or the part state are refused LIMP_ACTIVE; and R172, R176:
CAL_SEGMENT and CAL_STORE are refused WRONG_STATE in ACTIVE and STOPPING. -/
def Obligations.RefusalsByPartState : Prop :=
  ∀ (i : Instr) (k : RequestKind) (h : LinkHeader) (payload : List Byte) (s : State),
    requestParts i = some (k, h, payload) → s.held = false → fits k h →
    (s.sup.part = .start → k ≠ .nop → k ≠ .status → k ≠ .ident → k ≠ .restart → refusedWith .busy k h i s) ∧
    (s.sup.part = .limp →
      k = .previewEvent ∨ k = .flushPreview ∨ k = .cancelEvent ∨ k = .cornerOptions ∨ k = .calSegment ∨
        k = .calStore ∨ k = .goActive →
      refusedWith .limpActive k h i s) ∧
    (s.sup.part = .active ∨ s.sup.part = .stopping → k = .calSegment ∨ k = .calStore →
      refusedWith .wrongState k h i s) ∧
    (s.sup.part = .standby → s.cal.store = .busy → k = .calSegment ∨ k = .calStore → refusedWith .busy k h i s)

/-- R162: the CRC of a record: the bits of its bytes, most significant first, through the register from H'FFFF; the CRC of
the nine digits is H'29B1, and the CRC over a record with its own CRC appended is 0. -/
def Obligations.RecordCrc : Prop :=
  (∀ bytes : List Byte,
    crc16 bytes =
      (bytes.flatMap byteBits).foldl
        (fun (reg : BitVec 16) b => if (reg.msb ^^ b) = true then (reg <<< 1) ^^^ 0x1021#16 else reg <<< 1) 0xFFFF#16) ∧
  crc16 [0x31, 0x32, 0x33, 0x34, 0x35, 0x36, 0x37, 0x38, 0x39] = 0x29B1#16 ∧
  ∀ bytes : List Byte, crc16 (withCrc bytes) = 0#16

/-- R158, R161, R163 and section 11.3: every well-formed request's frame is valid, the request read from it is that request,
with every operand at every value, and the bits clocked in its transaction gather to that frame. -/
def Obligations.EncodedRequestsDecode : Prop :=
  ∀ (i : Instr) (f : RxFrame), i.wellFormed = true → encodeRequest i = some f →
    decodeRequest f = some i ∧ gatherBits (requestBits i) = f

/-! ## Invariants -/

/-- State.reset, with the values of log entries 4, 5 and 11, keeps every law of Sys2Proof/Safety.lean. -/
def Obligations.ResetMeetsEveryLaw : Prop :=
  PartLegal State.reset ∧ SupervisorLegal State.reset ∧ ImageLegal State.reset ∧ DownloadLegal State.reset ∧
  DrivesLegal State.reset ∧ TagsLegal State.reset ∧ WindowsLegal State.reset ∧ ReachLegal State.reset ∧
  ScheduleEmptyOutsideActive State.reset ∧ ArbitersLegal State.reset ∧ AcquisitionsLegal State.reset ∧
  CountsLegal State.reset ∧ CoefficientsLegal State.reset ∧ RestLegal State.reset

/-- R113, R145, R170, R176 and R177: every step keeps the part state legal against image, DRVEN and store; R120, R147 and R153:
every step keeps reasons, STOPPING timer and target sources in line with the part state. -/
def Obligations.EveryStepKeepsPartAndSupervisorLegal : Prop :=
  (∀ s t : State, PartLegal s → step s = .next t → PartLegal t) ∧
  (∀ s t : State, SupervisorLegal s → step s = .next t → SupervisorLegal t)

/-- R171, R173 and R174: every step keeps the image memories canonical, a VALID image one that passes validation, and the
download in line with the image state. -/
def Obligations.EveryStepKeepsTheImagesLegal : Prop :=
  ∀ s t : State, PartLegal s ∧ ImageLegal s ∧ DownloadLegal s → step s = .next t → ImageLegal t ∧ DownloadLegal t

/-- R119 to R123, R125, R129 and R139: every step keeps every drive stage legal, none driving in START and STANDBY or while
DRVEN is low. -/
def Obligations.EveryStepKeepsTheDrivesLegal : Prop :=
  ∀ s t : State, PartLegal s ∧ SupervisorLegal s ∧ DrivesLegal s → step s = .next t → DrivesLegal t

/-- R45 and R97: every step keeps each tag 0..23 held by at most one event or record. -/
def Obligations.EveryStepKeepsTheTagLaw : Prop :=
  ∀ s t : State, TagsLegal s → step s = .next t → TagsLegal t

/-- R46, R57 and R71: every step keeps the window store in line with the event table and the orphan count, and both empty
outside ACTIVE; R53: every step keeps every window of the store unpassed and every open one within its lead. -/
def Obligations.EveryStepKeepsTheWindowStore : Prop :=
  (∀ s t : State, WindowsLegal s ∧ ScheduleEmptyOutsideActive s → step s = .next t →
    WindowsLegal t ∧ ScheduleEmptyOutsideActive t) ∧
  (∀ s t : State, ReachLegal s → step s = .next t → ReachLegal t)

/-- R84: every step keeps the structure of the arbitration at every corner. -/
def Obligations.EveryStepKeepsTheArbitration : Prop :=
  ∀ s t : State, ArbitersLegal s → step s = .next t → ArbitersLegal t

/-- Sections 1.1, 1.2, 3.1, 4.1 and 9.1: every step keeps acquisition, motion input and counts within their ranges. -/
def Obligations.EveryStepKeepsTheRanges : Prop :=
  ∀ s t : State, PartLegal s ∧ ImageLegal s ∧ DownloadLegal s ∧ AcquisitionsLegal s ∧ CountsLegal s →
    step s = .next t → AcquisitionsLegal t ∧ CountsLegal t

/-- Sections 2.3, 6.1 and 6.5, R38, R48 and R114: every step keeps coefficients and currents within their ranges, and all
of them 0 at the valves in START and STANDBY. -/
def Obligations.EveryStepKeepsTheCoefficients : Prop :=
  ∀ s t : State,
    PartLegal s ∧ SupervisorLegal s ∧ ImageLegal s ∧ DownloadLegal s ∧ CoefficientsLegal s ∧ RestLegal s →
    step s = .next t → CoefficientsLegal t ∧ RestLegal t
end

