-- ==== Sys2Proof/Laws/State.lean ====
section
/-! SUPPORT. One lemma per field per update of the state, and the laws of a value per corner. -/

namespace Sys2Proof

/-! ## PerCorner -/

theorem PerCorner.ext_get {α : Type} {v w : PerCorner α} (h : ∀ c, v.get c = w.get c) : v = w := by
  obtain ⟨a, b, c, d⟩ := v
  obtain ⟨a', b', c', d'⟩ := w
  have h0 := h .fl
  have h1 := h .fr
  have h2 := h .rl
  have h3 := h .rr
  simp only [PerCorner.get] at h0 h1 h2 h3
  simp only [h0, h1, h2, h3]

@[simp] theorem PerCorner.get_set_self {α : Type} (v : PerCorner α) (c : Corner) (x : α) : (v.set c x).get c = x := by
  cases c <;> rfl

@[simp] theorem PerCorner.get_set_ne {α : Type} (v : PerCorner α) {c d : Corner} (x : α) (h : d ≠ c) :
    (v.set c x).get d = v.get d := by
  cases c <;> cases d <;> first | rfl | exact absurd rfl h

theorem PerCorner.get_set {α : Type} (v : PerCorner α) (c d : Corner) (x : α) :
    (v.set c x).get d = if d = c then x else v.get d := by
  by_cases h : d = c
  · subst h; simp
  · simp [h]

@[simp] theorem PerCorner.set_get_self {α : Type} (v : PerCorner α) (c : Corner) : v.set c (v.get c) = v := by
  cases c <;> rfl

@[simp] theorem PerCorner.set_set {α : Type} (v : PerCorner α) (c : Corner) (x y : α) :
    (v.set c x).set c y = v.set c y := by
  cases c <;> rfl

@[simp] theorem PerCorner.get_map {α β : Type} (f : α → β) (v : PerCorner α) (c : Corner) :
    (v.map f).get c = f (v.get c) := by
  cases c <;> rfl

@[simp] theorem PerCorner.get_build {α : Type} (f : Corner → α) (c : Corner) : (PerCorner.build f).get c = f c := by
  cases c <;> rfl

@[simp] theorem PerCorner.get_replicate {α : Type} (x : α) (c : Corner) : (PerCorner.replicate x).get c = x := by
  cases c <;> rfl

@[simp] theorem PerCorner.build_get {α : Type} (v : PerCorner α) : PerCorner.build (fun c => v.get c) = v := rfl

theorem Corner.forall_iff {p : Corner → Prop} : (∀ c, p c) ↔ p .fl ∧ p .fr ∧ p .rl ∧ p .rr :=
  ⟨fun h => ⟨h _, h _, h _, h _⟩, fun h c => by cases c <;> simp [h]⟩

theorem Corner.mem_all (c : Corner) : c ∈ Corner.all := by cases c <;> simp [Corner.all]

namespace Machine

/-! ## Updates of one block -/

@[simp] theorem State.setAcq_acq (s : State) (c : Corner) (q : Acquisition) : (s.setAcq c q).acq = s.acq.set c q := rfl
@[simp] theorem State.setAcq_law (s : State) (c : Corner) (q : Acquisition) : (s.setAcq c q).law = s.law := rfl
@[simp] theorem State.setAcq_arb (s : State) (c : Corner) (q : Acquisition) : (s.setAcq c q).arb = s.arb := rfl
@[simp] theorem State.setAcq_drive (s : State) (c : Corner) (q : Acquisition) : (s.setAcq c q).drive = s.drive := rfl
@[simp] theorem State.setAcq_motion (s : State) (c : Corner) (q : Acquisition) : (s.setAcq c q).motion = s.motion := rfl
@[simp] theorem State.setAcq_modes (s : State) (c : Corner) (q : Acquisition) : (s.setAcq c q).modes = s.modes := rfl
@[simp] theorem State.setAcq_sched (s : State) (c : Corner) (q : Acquisition) : (s.setAcq c q).sched = s.sched := rfl
@[simp] theorem State.setAcq_sup (s : State) (c : Corner) (q : Acquisition) : (s.setAcq c q).sup = s.sup := rfl
@[simp] theorem State.setAcq_link (s : State) (c : Corner) (q : Acquisition) : (s.setAcq c q).link = s.link := rfl
@[simp] theorem State.setAcq_cal (s : State) (c : Corner) (q : Acquisition) : (s.setAcq c q).cal = s.cal := rfl
@[simp] theorem State.setAcq_held (s : State) (c : Corner) (q : Acquisition) : (s.setAcq c q).held = s.held := rfl
@[simp] theorem State.setAcq_drven (s : State) (c : Corner) (q : Acquisition) : (s.setAcq c q).drven = s.drven := rfl
@[simp] theorem State.setAcq_sdo (s : State) (c : Corner) (q : Acquisition) : (s.setAcq c q).sdo = s.sdo := rfl
@[simp] theorem State.setAcq_freeCount (s : State) (c : Corner) (q : Acquisition) : (s.setAcq c q).freeCount = s.freeCount := rfl
@[simp] theorem State.setAcq_pending (s : State) (c : Corner) (q : Acquisition) : (s.setAcq c q).pending = s.pending := rfl

@[simp] theorem State.setLaw_acq (s : State) (c : Corner) (l : LawResults) : (s.setLaw c l).acq = s.acq := rfl
@[simp] theorem State.setLaw_law (s : State) (c : Corner) (l : LawResults) : (s.setLaw c l).law = s.law.set c l := rfl
@[simp] theorem State.setLaw_arb (s : State) (c : Corner) (l : LawResults) : (s.setLaw c l).arb = s.arb := rfl
@[simp] theorem State.setLaw_drive (s : State) (c : Corner) (l : LawResults) : (s.setLaw c l).drive = s.drive := rfl
@[simp] theorem State.setLaw_motion (s : State) (c : Corner) (l : LawResults) : (s.setLaw c l).motion = s.motion := rfl
@[simp] theorem State.setLaw_modes (s : State) (c : Corner) (l : LawResults) : (s.setLaw c l).modes = s.modes := rfl
@[simp] theorem State.setLaw_sched (s : State) (c : Corner) (l : LawResults) : (s.setLaw c l).sched = s.sched := rfl
@[simp] theorem State.setLaw_sup (s : State) (c : Corner) (l : LawResults) : (s.setLaw c l).sup = s.sup := rfl
@[simp] theorem State.setLaw_link (s : State) (c : Corner) (l : LawResults) : (s.setLaw c l).link = s.link := rfl
@[simp] theorem State.setLaw_cal (s : State) (c : Corner) (l : LawResults) : (s.setLaw c l).cal = s.cal := rfl
@[simp] theorem State.setLaw_held (s : State) (c : Corner) (l : LawResults) : (s.setLaw c l).held = s.held := rfl
@[simp] theorem State.setLaw_drven (s : State) (c : Corner) (l : LawResults) : (s.setLaw c l).drven = s.drven := rfl
@[simp] theorem State.setLaw_sdo (s : State) (c : Corner) (l : LawResults) : (s.setLaw c l).sdo = s.sdo := rfl
@[simp] theorem State.setLaw_freeCount (s : State) (c : Corner) (l : LawResults) : (s.setLaw c l).freeCount = s.freeCount := rfl
@[simp] theorem State.setLaw_pending (s : State) (c : Corner) (l : LawResults) : (s.setLaw c l).pending = s.pending := rfl

@[simp] theorem State.setArb_acq (s : State) (c : Corner) (a : Arbiter) : (s.setArb c a).acq = s.acq := rfl
@[simp] theorem State.setArb_law (s : State) (c : Corner) (a : Arbiter) : (s.setArb c a).law = s.law := rfl
@[simp] theorem State.setArb_arb (s : State) (c : Corner) (a : Arbiter) : (s.setArb c a).arb = s.arb.set c a := rfl
@[simp] theorem State.setArb_drive (s : State) (c : Corner) (a : Arbiter) : (s.setArb c a).drive = s.drive := rfl
@[simp] theorem State.setArb_motion (s : State) (c : Corner) (a : Arbiter) : (s.setArb c a).motion = s.motion := rfl
@[simp] theorem State.setArb_modes (s : State) (c : Corner) (a : Arbiter) : (s.setArb c a).modes = s.modes := rfl
@[simp] theorem State.setArb_sched (s : State) (c : Corner) (a : Arbiter) : (s.setArb c a).sched = s.sched := rfl
@[simp] theorem State.setArb_sup (s : State) (c : Corner) (a : Arbiter) : (s.setArb c a).sup = s.sup := rfl
@[simp] theorem State.setArb_link (s : State) (c : Corner) (a : Arbiter) : (s.setArb c a).link = s.link := rfl
@[simp] theorem State.setArb_cal (s : State) (c : Corner) (a : Arbiter) : (s.setArb c a).cal = s.cal := rfl
@[simp] theorem State.setArb_held (s : State) (c : Corner) (a : Arbiter) : (s.setArb c a).held = s.held := rfl
@[simp] theorem State.setArb_drven (s : State) (c : Corner) (a : Arbiter) : (s.setArb c a).drven = s.drven := rfl
@[simp] theorem State.setArb_sdo (s : State) (c : Corner) (a : Arbiter) : (s.setArb c a).sdo = s.sdo := rfl
@[simp] theorem State.setArb_freeCount (s : State) (c : Corner) (a : Arbiter) : (s.setArb c a).freeCount = s.freeCount := rfl
@[simp] theorem State.setArb_pending (s : State) (c : Corner) (a : Arbiter) : (s.setArb c a).pending = s.pending := rfl

@[simp] theorem State.setDrive_acq (s : State) (c : Corner) (d : Drive) : (s.setDrive c d).acq = s.acq := rfl
@[simp] theorem State.setDrive_law (s : State) (c : Corner) (d : Drive) : (s.setDrive c d).law = s.law := rfl
@[simp] theorem State.setDrive_arb (s : State) (c : Corner) (d : Drive) : (s.setDrive c d).arb = s.arb := rfl
@[simp] theorem State.setDrive_drive (s : State) (c : Corner) (d : Drive) : (s.setDrive c d).drive = s.drive.set c d := rfl
@[simp] theorem State.setDrive_motion (s : State) (c : Corner) (d : Drive) : (s.setDrive c d).motion = s.motion := rfl
@[simp] theorem State.setDrive_modes (s : State) (c : Corner) (d : Drive) : (s.setDrive c d).modes = s.modes := rfl
@[simp] theorem State.setDrive_sched (s : State) (c : Corner) (d : Drive) : (s.setDrive c d).sched = s.sched := rfl
@[simp] theorem State.setDrive_sup (s : State) (c : Corner) (d : Drive) : (s.setDrive c d).sup = s.sup := rfl
@[simp] theorem State.setDrive_link (s : State) (c : Corner) (d : Drive) : (s.setDrive c d).link = s.link := rfl
@[simp] theorem State.setDrive_cal (s : State) (c : Corner) (d : Drive) : (s.setDrive c d).cal = s.cal := rfl
@[simp] theorem State.setDrive_held (s : State) (c : Corner) (d : Drive) : (s.setDrive c d).held = s.held := rfl
@[simp] theorem State.setDrive_drven (s : State) (c : Corner) (d : Drive) : (s.setDrive c d).drven = s.drven := rfl
@[simp] theorem State.setDrive_sdo (s : State) (c : Corner) (d : Drive) : (s.setDrive c d).sdo = s.sdo := rfl
@[simp] theorem State.setDrive_freeCount (s : State) (c : Corner) (d : Drive) : (s.setDrive c d).freeCount = s.freeCount := rfl
@[simp] theorem State.setDrive_pending (s : State) (c : Corner) (d : Drive) : (s.setDrive c d).pending = s.pending := rfl

@[simp] theorem State.setSched_acq (s : State) (x : Scheduler) : (s.setSched x).acq = s.acq := rfl
@[simp] theorem State.setSched_law (s : State) (x : Scheduler) : (s.setSched x).law = s.law := rfl
@[simp] theorem State.setSched_arb (s : State) (x : Scheduler) : (s.setSched x).arb = s.arb := rfl
@[simp] theorem State.setSched_drive (s : State) (x : Scheduler) : (s.setSched x).drive = s.drive := rfl
@[simp] theorem State.setSched_motion (s : State) (x : Scheduler) : (s.setSched x).motion = s.motion := rfl
@[simp] theorem State.setSched_modes (s : State) (x : Scheduler) : (s.setSched x).modes = s.modes := rfl
@[simp] theorem State.setSched_sched (s : State) (x : Scheduler) : (s.setSched x).sched = x := rfl
@[simp] theorem State.setSched_sup (s : State) (x : Scheduler) : (s.setSched x).sup = s.sup := rfl
@[simp] theorem State.setSched_link (s : State) (x : Scheduler) : (s.setSched x).link = s.link := rfl
@[simp] theorem State.setSched_cal (s : State) (x : Scheduler) : (s.setSched x).cal = s.cal := rfl
@[simp] theorem State.setSched_held (s : State) (x : Scheduler) : (s.setSched x).held = s.held := rfl
@[simp] theorem State.setSched_drven (s : State) (x : Scheduler) : (s.setSched x).drven = s.drven := rfl
@[simp] theorem State.setSched_sdo (s : State) (x : Scheduler) : (s.setSched x).sdo = s.sdo := rfl
@[simp] theorem State.setSched_freeCount (s : State) (x : Scheduler) : (s.setSched x).freeCount = s.freeCount := rfl
@[simp] theorem State.setSched_pending (s : State) (x : Scheduler) : (s.setSched x).pending = s.pending := rfl

@[simp] theorem State.setSup_acq (s : State) (x : Supervisor) : (s.setSup x).acq = s.acq := rfl
@[simp] theorem State.setSup_law (s : State) (x : Supervisor) : (s.setSup x).law = s.law := rfl
@[simp] theorem State.setSup_arb (s : State) (x : Supervisor) : (s.setSup x).arb = s.arb := rfl
@[simp] theorem State.setSup_drive (s : State) (x : Supervisor) : (s.setSup x).drive = s.drive := rfl
@[simp] theorem State.setSup_motion (s : State) (x : Supervisor) : (s.setSup x).motion = s.motion := rfl
@[simp] theorem State.setSup_modes (s : State) (x : Supervisor) : (s.setSup x).modes = s.modes := rfl
@[simp] theorem State.setSup_sched (s : State) (x : Supervisor) : (s.setSup x).sched = s.sched := rfl
@[simp] theorem State.setSup_sup (s : State) (x : Supervisor) : (s.setSup x).sup = x := rfl
@[simp] theorem State.setSup_link (s : State) (x : Supervisor) : (s.setSup x).link = s.link := rfl
@[simp] theorem State.setSup_cal (s : State) (x : Supervisor) : (s.setSup x).cal = s.cal := rfl
@[simp] theorem State.setSup_held (s : State) (x : Supervisor) : (s.setSup x).held = s.held := rfl
@[simp] theorem State.setSup_drven (s : State) (x : Supervisor) : (s.setSup x).drven = s.drven := rfl
@[simp] theorem State.setSup_sdo (s : State) (x : Supervisor) : (s.setSup x).sdo = s.sdo := rfl
@[simp] theorem State.setSup_freeCount (s : State) (x : Supervisor) : (s.setSup x).freeCount = s.freeCount := rfl
@[simp] theorem State.setSup_pending (s : State) (x : Supervisor) : (s.setSup x).pending = s.pending := rfl

@[simp] theorem State.setCal_acq (s : State) (x : CalStore) : (s.setCal x).acq = s.acq := rfl
@[simp] theorem State.setCal_law (s : State) (x : CalStore) : (s.setCal x).law = s.law := rfl
@[simp] theorem State.setCal_arb (s : State) (x : CalStore) : (s.setCal x).arb = s.arb := rfl
@[simp] theorem State.setCal_drive (s : State) (x : CalStore) : (s.setCal x).drive = s.drive := rfl
@[simp] theorem State.setCal_motion (s : State) (x : CalStore) : (s.setCal x).motion = s.motion := rfl
@[simp] theorem State.setCal_modes (s : State) (x : CalStore) : (s.setCal x).modes = s.modes := rfl
@[simp] theorem State.setCal_sched (s : State) (x : CalStore) : (s.setCal x).sched = s.sched := rfl
@[simp] theorem State.setCal_sup (s : State) (x : CalStore) : (s.setCal x).sup = s.sup := rfl
@[simp] theorem State.setCal_link (s : State) (x : CalStore) : (s.setCal x).link = s.link := rfl
@[simp] theorem State.setCal_cal (s : State) (x : CalStore) : (s.setCal x).cal = x := rfl
@[simp] theorem State.setCal_held (s : State) (x : CalStore) : (s.setCal x).held = s.held := rfl
@[simp] theorem State.setCal_drven (s : State) (x : CalStore) : (s.setCal x).drven = s.drven := rfl
@[simp] theorem State.setCal_sdo (s : State) (x : CalStore) : (s.setCal x).sdo = s.sdo := rfl
@[simp] theorem State.setCal_freeCount (s : State) (x : CalStore) : (s.setCal x).freeCount = s.freeCount := rfl
@[simp] theorem State.setCal_pending (s : State) (x : CalStore) : (s.setCal x).pending = s.pending := rfl

@[simp] theorem State.setMotion_acq (s : State) (x : Motion) : (s.setMotion x).acq = s.acq := rfl
@[simp] theorem State.setMotion_law (s : State) (x : Motion) : (s.setMotion x).law = s.law := rfl
@[simp] theorem State.setMotion_arb (s : State) (x : Motion) : (s.setMotion x).arb = s.arb := rfl
@[simp] theorem State.setMotion_drive (s : State) (x : Motion) : (s.setMotion x).drive = s.drive := rfl
@[simp] theorem State.setMotion_motion (s : State) (x : Motion) : (s.setMotion x).motion = x := rfl
@[simp] theorem State.setMotion_modes (s : State) (x : Motion) : (s.setMotion x).modes = s.modes := rfl
@[simp] theorem State.setMotion_sched (s : State) (x : Motion) : (s.setMotion x).sched = s.sched := rfl
@[simp] theorem State.setMotion_sup (s : State) (x : Motion) : (s.setMotion x).sup = s.sup := rfl
@[simp] theorem State.setMotion_link (s : State) (x : Motion) : (s.setMotion x).link = s.link := rfl
@[simp] theorem State.setMotion_cal (s : State) (x : Motion) : (s.setMotion x).cal = s.cal := rfl
@[simp] theorem State.setMotion_held (s : State) (x : Motion) : (s.setMotion x).held = s.held := rfl
@[simp] theorem State.setMotion_drven (s : State) (x : Motion) : (s.setMotion x).drven = s.drven := rfl
@[simp] theorem State.setMotion_sdo (s : State) (x : Motion) : (s.setMotion x).sdo = s.sdo := rfl
@[simp] theorem State.setMotion_freeCount (s : State) (x : Motion) : (s.setMotion x).freeCount = s.freeCount := rfl
@[simp] theorem State.setMotion_pending (s : State) (x : Motion) : (s.setMotion x).pending = s.pending := rfl

@[simp] theorem State.setReply_acq (s : State) (x : Reply) : (s.setReply x).acq = s.acq := rfl
@[simp] theorem State.setReply_law (s : State) (x : Reply) : (s.setReply x).law = s.law := rfl
@[simp] theorem State.setReply_arb (s : State) (x : Reply) : (s.setReply x).arb = s.arb := rfl
@[simp] theorem State.setReply_drive (s : State) (x : Reply) : (s.setReply x).drive = s.drive := rfl
@[simp] theorem State.setReply_motion (s : State) (x : Reply) : (s.setReply x).motion = s.motion := rfl
@[simp] theorem State.setReply_modes (s : State) (x : Reply) : (s.setReply x).modes = s.modes := rfl
@[simp] theorem State.setReply_sched (s : State) (x : Reply) : (s.setReply x).sched = s.sched := rfl
@[simp] theorem State.setReply_sup (s : State) (x : Reply) : (s.setReply x).sup = s.sup := rfl
@[simp] theorem State.setReply_link (s : State) (x : Reply) : (s.setReply x).link = { s.link with reply := x } := rfl
@[simp] theorem State.setReply_cal (s : State) (x : Reply) : (s.setReply x).cal = s.cal := rfl
@[simp] theorem State.setReply_held (s : State) (x : Reply) : (s.setReply x).held = s.held := rfl
@[simp] theorem State.setReply_drven (s : State) (x : Reply) : (s.setReply x).drven = s.drven := rfl
@[simp] theorem State.setReply_sdo (s : State) (x : Reply) : (s.setReply x).sdo = s.sdo := rfl
@[simp] theorem State.setReply_freeCount (s : State) (x : Reply) : (s.setReply x).freeCount = s.freeCount := rfl
@[simp] theorem State.setReply_pending (s : State) (x : Reply) : (s.setReply x).pending = s.pending := rfl

@[simp] theorem State.addLimpReason_acq (s : State) (r : LimpReason) : (s.addLimpReason r).acq = s.acq := rfl
@[simp] theorem State.addLimpReason_law (s : State) (r : LimpReason) : (s.addLimpReason r).law = s.law := rfl
@[simp] theorem State.addLimpReason_arb (s : State) (r : LimpReason) : (s.addLimpReason r).arb = s.arb := rfl
@[simp] theorem State.addLimpReason_drive (s : State) (r : LimpReason) : (s.addLimpReason r).drive = s.drive := rfl
@[simp] theorem State.addLimpReason_motion (s : State) (r : LimpReason) : (s.addLimpReason r).motion = s.motion := rfl
@[simp] theorem State.addLimpReason_modes (s : State) (r : LimpReason) : (s.addLimpReason r).modes = s.modes := rfl
@[simp] theorem State.addLimpReason_sched (s : State) (r : LimpReason) : (s.addLimpReason r).sched = s.sched := rfl
@[simp] theorem State.addLimpReason_sup (s : State) (r : LimpReason) : (s.addLimpReason r).sup = { s.sup with limpSet := s.sup.limpSet.add r } := rfl
@[simp] theorem State.addLimpReason_link (s : State) (r : LimpReason) : (s.addLimpReason r).link = s.link := rfl
@[simp] theorem State.addLimpReason_cal (s : State) (r : LimpReason) : (s.addLimpReason r).cal = s.cal := rfl
@[simp] theorem State.addLimpReason_held (s : State) (r : LimpReason) : (s.addLimpReason r).held = s.held := rfl
@[simp] theorem State.addLimpReason_drven (s : State) (r : LimpReason) : (s.addLimpReason r).drven = s.drven := rfl
@[simp] theorem State.addLimpReason_sdo (s : State) (r : LimpReason) : (s.addLimpReason r).sdo = s.sdo := rfl
@[simp] theorem State.addLimpReason_freeCount (s : State) (r : LimpReason) : (s.addLimpReason r).freeCount = s.freeCount := rfl
@[simp] theorem State.addLimpReason_pending (s : State) (r : LimpReason) : (s.addLimpReason r).pending = s.pending := rfl

/-- The state at the rise of SSN after a select period of `n` clocks, before the frame is looked at. -/
def transacted (n : Nat) (s : State) : State :=
  { s with sdo := shownBits s n, link := { s.link with receive := .idle, txPos := .start } }

@[simp] theorem transacted_acq (n : Nat) (s : State) : (transacted n s).acq = s.acq := rfl
@[simp] theorem transacted_law (n : Nat) (s : State) : (transacted n s).law = s.law := rfl
@[simp] theorem transacted_arb (n : Nat) (s : State) : (transacted n s).arb = s.arb := rfl
@[simp] theorem transacted_drive (n : Nat) (s : State) : (transacted n s).drive = s.drive := rfl
@[simp] theorem transacted_motion (n : Nat) (s : State) : (transacted n s).motion = s.motion := rfl
@[simp] theorem transacted_modes (n : Nat) (s : State) : (transacted n s).modes = s.modes := rfl
@[simp] theorem transacted_sched (n : Nat) (s : State) : (transacted n s).sched = s.sched := rfl
@[simp] theorem transacted_sup (n : Nat) (s : State) : (transacted n s).sup = s.sup := rfl
@[simp] theorem transacted_link (n : Nat) (s : State) : (transacted n s).link = { s.link with receive := .idle, txPos := .start } := rfl
@[simp] theorem transacted_cal (n : Nat) (s : State) : (transacted n s).cal = s.cal := rfl
@[simp] theorem transacted_held (n : Nat) (s : State) : (transacted n s).held = s.held := rfl
@[simp] theorem transacted_drven (n : Nat) (s : State) : (transacted n s).drven = s.drven := rfl
@[simp] theorem transacted_sdo (n : Nat) (s : State) : (transacted n s).sdo = shownBits s n := rfl
@[simp] theorem transacted_freeCount (n : Nat) (s : State) : (transacted n s).freeCount = s.freeCount := rfl
@[simp] theorem transacted_pending (n : Nat) (s : State) : (transacted n s).pending = s.pending := rfl

@[simp] theorem takeFrame_acq (h : LinkHeader) (s : State) : (takeFrame h s).acq = s.acq := rfl
@[simp] theorem takeFrame_law (h : LinkHeader) (s : State) : (takeFrame h s).law = s.law := rfl
@[simp] theorem takeFrame_arb (h : LinkHeader) (s : State) : (takeFrame h s).arb = s.arb := rfl
@[simp] theorem takeFrame_drive (h : LinkHeader) (s : State) : (takeFrame h s).drive = s.drive := rfl
@[simp] theorem takeFrame_motion (h : LinkHeader) (s : State) : (takeFrame h s).motion = s.motion := rfl
@[simp] theorem takeFrame_modes (h : LinkHeader) (s : State) : (takeFrame h s).modes = handMode h.mode s.modes := rfl
@[simp] theorem takeFrame_sched (h : LinkHeader) (s : State) : (takeFrame h s).sched = s.sched := rfl
@[simp] theorem takeFrame_sup (h : LinkHeader) (s : State) : (takeFrame h s).sup = s.sup := rfl
@[simp] theorem takeFrame_link (h : LinkHeader) (s : State) : (takeFrame h s).link = { s.link with silence := 0 } := rfl
@[simp] theorem takeFrame_cal (h : LinkHeader) (s : State) : (takeFrame h s).cal = s.cal := rfl
@[simp] theorem takeFrame_held (h : LinkHeader) (s : State) : (takeFrame h s).held = s.held := rfl
@[simp] theorem takeFrame_drven (h : LinkHeader) (s : State) : (takeFrame h s).drven = s.drven := rfl
@[simp] theorem takeFrame_sdo (h : LinkHeader) (s : State) : (takeFrame h s).sdo = s.sdo := rfl
@[simp] theorem takeFrame_freeCount (h : LinkHeader) (s : State) : (takeFrame h s).freeCount = s.freeCount := rfl
@[simp] theorem takeFrame_pending (h : LinkHeader) (s : State) : (takeFrame h s).pending = s.pending := rfl

@[simp] theorem flush_acq  (s : State) : (flush s).acq = s.acq := rfl
@[simp] theorem flush_law  (s : State) : (flush s).law = s.law := rfl
@[simp] theorem flush_arb  (s : State) : (flush s).arb = s.arb.map clearArbitration := rfl
@[simp] theorem flush_drive  (s : State) : (flush s).drive = s.drive := rfl
@[simp] theorem flush_motion  (s : State) : (flush s).motion = s.motion := rfl
@[simp] theorem flush_modes  (s : State) : (flush s).modes = s.modes := rfl
@[simp] theorem flush_sched  (s : State) : (flush s).sched = { s.sched with
      events := [], pendingWindows := [],
      completions := s.sched.completions ++ s.sched.events.map (recordOf .flushed s.sched.msCount), orphanCount := 0 } := rfl
@[simp] theorem flush_sup  (s : State) : (flush s).sup = s.sup := rfl
@[simp] theorem flush_link  (s : State) : (flush s).link = s.link := rfl
@[simp] theorem flush_cal  (s : State) : (flush s).cal = s.cal := rfl
@[simp] theorem flush_held  (s : State) : (flush s).held = s.held := rfl
@[simp] theorem flush_drven  (s : State) : (flush s).drven = s.drven := rfl
@[simp] theorem flush_sdo  (s : State) : (flush s).sdo = s.sdo := rfl
@[simp] theorem flush_freeCount  (s : State) : (flush s).freeCount = s.freeCount := rfl
@[simp] theorem flush_pending  (s : State) : (flush s).pending = s.pending := rfl
/-! ## Indications read no link state -/

@[simp] theorem State.conditionCode_setReply (s : State) (r : Reply) : (s.setReply r).conditionCode = s.conditionCode := rfl

@[simp] theorem State.faultSummary_setReply (s : State) (r : Reply) (c : Corner) :
    (s.setReply r).faultSummary c = s.faultSummary c := rfl

@[simp] theorem State.windows_setReply (s : State) (r : Reply) : (s.setReply r).windows = s.windows := rfl

/-- The condition code depends on the part state, the notices, freshness, the mode in force and the image alone. -/
theorem State.conditionCode_congr {s t : State} (h0 : t.sup = s.sup) (h1 : t.sched.completions = s.sched.completions)
    (h2 : t.motion.age = s.motion.age) (h3 : t.cal = s.cal) (h4 : t.modes.inForce = s.modes.inForce) :
    t.conditionCode = s.conditionCode := by
  simp only [State.conditionCode, State.noticePending, State.completionsWaiting, State.bodyFresh, State.imageValid, h0, h1,
    h2, h3, h4]

/-- The fault summary of a corner depends on its stage, its SENSOR and its report mask alone. -/
theorem State.faultSummary_congr {s t : State} {c : Corner} (h0 : t.drive.get c = s.drive.get c)
    (h1 : (t.acq.get c).sensor = (s.acq.get c).sensor)
    (h2 : (t.arb.get c).reportRegLow = (s.arb.get c).reportRegLow)
    (h3 : (t.arb.get c).reportSensor = (s.arb.get c).reportSensor) : t.faultSummary c = s.faultSummary c := by
  simp only [State.faultSummary, summaryOf, h0, h1, h2, h3]

end Machine

end Sys2Proof
end

