-- ==== Sys2Proof/Laws/Image.lean ====
section
/-! SUPPORT. The fields, points and edges of the image that a check of R174 finds, read from what the statements say of
an offset. -/

namespace Sys2Proof.Machine

open Sys2Proof

/-- Some field of the image begins at the offset and is out of its range. -/
def fieldFails (m : Memory) (o : Nat) : Prop := ∃ f ∈ fieldRanges, f.offset = o ∧ f.inRange m = false

theorem twoByte_fails {m : Memory} {lo hi o : Nat} (hmem : twoByteRange lo hi o ∈ fieldRanges)
    (h : ¬(lo ≤ m.word o ∧ m.word o ≤ hi)) : fieldFails m o := by
  refine ⟨_, hmem, rfl, ?_⟩
  simp only [FieldRange.inRange, FieldRange.held, twoByteRange, Limit.value]
  simpa using h

theorem oneByte_fails {m : Memory} {lo hi o : Nat} (hmem : oneByteRange lo hi o ∈ fieldRanges)
    (h : ¬(lo ≤ (m.read o).toNat ∧ (m.read o).toNat ≤ hi)) : fieldFails m o := by
  refine ⟨_, hmem, rfl, ?_⟩
  simp only [FieldRange.inRange, FieldRange.held, oneByteRange, Limit.value]
  simpa using h

theorem mem_fieldRanges_head {f : FieldRange} (h : f ∈ headRanges) : f ∈ fieldRanges := by
  simp only [fieldRanges, List.mem_append]
  exact .inl (.inl h)

theorem mem_fieldRanges_mode {f : FieldRange} {b : Nat} (hb : b = 52 ∨ b = 66 ∨ b = 80 ∨ b = 94)
    (h : f ∈ modeRowRanges b) : f ∈ fieldRanges := by
  simp only [fieldRanges, List.mem_append, List.mem_flatMap]
  exact .inl (.inr ⟨b, by simpa using hb, h⟩)

/-- A field of the head that is out of its range is a field of the table (section 11.5). -/
theorem headOutOfRange_fails {m : Memory} {o : Nat} (h : headOutOfRange m o) : fieldFails m o := by
  have two : ∀ lo hi, twoByteRange lo hi o ∈ headRanges → ¬(lo ≤ m.word o ∧ m.word o ≤ hi) → fieldFails m o :=
    fun lo hi hm => twoByte_fails (mem_fieldRanges_head hm)
  have one : ∀ lo hi, oneByteRange lo hi o ∈ headRanges →
      ¬(lo ≤ (m.read o).toNat ∧ (m.read o).toNat ≤ hi) → fieldFails m o :=
    fun lo hi hm => oneByte_fails (mem_fieldRanges_head hm)
  rcases h with h | h | h | h | h | h | h | h | hrest
  · exact two 2000 3600 (by rw [h.1]; decide) h.2
  · exact two 500 900 (by rcases h.1 with rfl | rfl <;> decide) h.2
  · exact two 600 2200 (by rcases h.1 with rfl | rfl <;> decide) h.2
  · exact two 0 4095 (by rcases h.1 with rfl | rfl | rfl | rfl <;> decide) (by omega)
  · exact two 1 4095 (by rcases h.1 with rfl | rfl | rfl | rfl <;> decide) h.2
  · exact one 1 16 (by rw [h.1]; decide) h.2
  · exact one 1 64 (by rw [h.1]; decide) h.2
  · exact two 20 200 (by rw [h.1]; decide) h.2
  · rcases hrest with h | h | h | h | h | h | h | h
    · exact two 20 2000 (by rcases h.1 with rfl | rfl | rfl <;> decide) h.2
    · exact two 0 1650 (by rcases h.1 with rfl | rfl <;> decide) (by omega)
    · exact two 1800 2500 (by rw [h.1]; decide) h.2
    · exact one 0 7 (by rw [h.1]; decide) (by omega)
    · exact one 10 100 (by rw [h.1]; decide) h.2
    · exact two 10 500 (by rw [h.1]; decide) h.2
    · exact two 20 500 (by rw [h.1]; decide) h.2
    · exact two 20 300 (by rw [h.1]; decide) h.2

/-- A field of a mode row that is out of its range is a field of the table. -/
theorem modeOutOfRange_fails {m : Memory} {o : Nat} (h : modeOutOfRange m o) : fieldFails m o := by
  obtain ⟨b, hb, h⟩ := h
  rcases h with ⟨rfl, h⟩ | ⟨rfl, h⟩ | ⟨rfl, h⟩ | ⟨rfl, h⟩ | ⟨ho, h⟩ | ⟨rfl, h⟩
  · exact twoByte_fails (lo := 0) (hi := 4000) (mem_fieldRanges_mode hb (by simp [modeRowRanges])) (by omega)
  · refine ⟨⟨b + 2, true, .field b, .const 4000⟩, mem_fieldRanges_mode hb (by simp [modeRowRanges]), rfl, ?_⟩
    simpa [FieldRange.inRange, FieldRange.held, Limit.value] using h
  · exact twoByte_fails (lo := 0) (hi := 4000) (mem_fieldRanges_mode hb (by simp [modeRowRanges])) (by omega)
  · refine ⟨⟨b + 6, true, .field b, .field (b + 2)⟩, mem_fieldRanges_mode hb (by simp [modeRowRanges]), rfl, ?_⟩
    simpa [FieldRange.inRange, FieldRange.held, Limit.value] using h
  · refine twoByte_fails (lo := 1) (hi := 500) (mem_fieldRanges_mode hb ?_) h
    rcases ho with rfl | rfl <;> simp [modeRowRanges]
  · exact twoByte_fails (lo := 0) (hi := 1) (mem_fieldRanges_mode hb (by simp [modeRowRanges])) (by omega)

/-- What the statements call out of range is found in the table of the ranges. -/
theorem outOfRange_fails {m : Memory} {o : Nat} (h : outOfRange m o) : fieldFails m o := by
  rcases h with h | h | ⟨k, hk, rfl, h⟩
  · exact headOutOfRange_fails h
  · exact modeOutOfRange_fails h
  · refine twoByte_fails (lo := 0) (hi := 4000) ?_ (by omega)
    simp only [fieldRanges, List.mem_append, List.mem_map, List.mem_range]
    exact .inr ⟨k, hk, rfl⟩

/-- A point that is not greater than the one before it is a point of the table. -/
theorem outOfOrder_mem {m : Memory} {o : Nat} (h : outOfOrder m o) : o ∈ innerPoints ∧ m.word o ≤ m.word (o - 2) := by
  obtain ⟨r, k, hr, hk, rfl, h⟩ := h
  simp only [innerPoints, List.mem_flatMap, List.mem_map, List.mem_range]
  exact ⟨⟨r, hr, k, hk, rfl⟩, h⟩

end Sys2Proof.Machine
end

