-- ==== Sys2Proof/Laws/Link.lean ====
section
/-! SUPPORT. What a request's transaction can do, said once. -/

namespace Sys2Proof.Machine

open Sys2Proof

/-! ## Bits and bytes -/

theorem byteOf_byteBits (b : Byte) :
    byteOf (b.getLsbD 7) (b.getLsbD 6) (b.getLsbD 5) (b.getLsbD 4) (b.getLsbD 3) (b.getLsbD 2) (b.getLsbD 1)
      (b.getLsbD 0) = b := by
  revert b
  decide +kernel

/-- The bits of whole bytes gather to those bytes (R158, R159: both sides take the most significant bit first). -/
theorem gatherBits_bitsOf (bytes : List Byte) : gatherBits (bitsOf bytes) = { bytes := bytes, extraBits := 0 } := by
  induction bytes with
  | nil => rfl
  | cons b rest ih =>
    have hcons : bitsOf (b :: rest) = byteBits b ++ bitsOf rest := rfl
    rw [hcons]
    simp only [byteBits, List.cons_append, List.nil_append, gatherBits, ih, byteOf_byteBits]

@[simp] theorem bitsOf_length (bytes : List Byte) : (bitsOf bytes).length = 8 * bytes.length := by
  induction bytes with
  | nil => rfl
  | cons b rest ih =>
    have hcons : bitsOf (b :: rest) = byteBits b ++ bitsOf rest := rfl
    rw [hcons, List.length_append, ih]
    simp [byteBits]
    omega

/-- A bit of a byte, counted from the most significant one. -/
theorem byteBits_getD (b : Byte) {j : Nat} (h : j < 8) : (byteBits b).getD j false = b.getLsbD (7 - j) := by
  have : j = 0 ∨ j = 1 ∨ j = 2 ∨ j = 3 ∨ j = 4 ∨ j = 5 ∨ j = 6 ∨ j = 7 := by omega
  rcases this with rfl | rfl | rfl | rfl | rfl | rfl | rfl | rfl <;> rfl

/-- A bit of bytes: the byte it lies in and its place there. -/
theorem bitsOf_getD (bytes : List Byte) (n : Nat) :
    (bitsOf bytes).getD n false = (bytes.getD (n / 8) 0).getLsbD (7 - n % 8) := by
  induction bytes generalizing n with
  | nil => simp [bitsOf]
  | cons b rest ih =>
    have hcons : bitsOf (b :: rest) = byteBits b ++ bitsOf rest := rfl
    have hlen : (byteBits b).length = 8 := rfl
    rw [hcons]
    by_cases h : n < 8
    · have h0 : n / 8 = 0 := by omega
      have h1 : n % 8 = n := by omega
      rw [List.getD_append _ _ _ _ (by omega), byteBits_getD b h, h0, h1]
      rfl
    · obtain ⟨m, rfl⟩ : ∃ m, n = m + 8 := ⟨n - 8, by omega⟩
      rw [List.getD_append_right _ _ _ _ (by omega), hlen, Nat.add_sub_cancel, ih,
        show (m + 8) / 8 = m / 8 + 1 by omega, show (m + 8) % 8 = m % 8 by omega]
      rfl

/-! ## A select period -/

/-- The transmit position after `n` clocks (R159). -/
def positionAfter (n : Nat) : TransmitPosition := { byte := n / 8, bit := n % 8 }

theorem positionAfter_next (n : Nat) : (positionAfter n).next = positionAfter (n + 1) := by
  have hstep : (positionAfter n).next =
      if n % 8 < 7 then { byte := n / 8, bit := n % 8 + 1 } else { byte := n / 8 + 1, bit := 0 } := rfl
  rw [hstep]
  by_cases h : n % 8 < 7
  · rw [if_pos h, positionAfter, show (n + 1) / 8 = n / 8 by omega, show (n + 1) % 8 = n % 8 + 1 by omega]
  · rw [if_neg h, positionAfter, show (n + 1) / 8 = n / 8 + 1 by omega, show (n + 1) % 8 = 0 by omega]

/-- What the first `n` clocks show, with the bit presented next. -/
theorem shownBits_succ (s : State) (n : Nat) :
    shownBits s (n + 1) = shownBits s n ++ [presentedBit s.link.reply (positionAfter n)] := by
  have hget : ∀ (l : List Bool) (k : Nat),
      (l ++ List.replicate k false).take k = (List.range k).map fun i => l.getD i false := by
    intro l k
    apply List.ext_getElem
    · simp
    · intro i h1 h2
      simp only [List.length_map, List.length_range] at h2
      simp only [List.getElem_take, List.getElem_map, List.getElem_range, List.getD_eq_getElem?_getD]
      by_cases hi : i < l.length
      · simp [List.getElem_append_left hi, hi]
      · simp [List.getElem_append_right (Nat.le_of_not_lt hi), hi]
  simp only [shownBits, hget, List.range_succ, List.map_append, List.map_cons, List.map_nil, bitsOf_getD,
    presentedBit, positionAfter]

/-- The port after the clocks of a select period: the bits received, the bits shown, the position reached. -/
theorem clockIn_eq (bits : List Bool) (s : State) :
    clockIn bits s =
      { s with
        sdo := shownBits s bits.length
        link := { s.link with receive := .selected bits, txPos := positionAfter bits.length } } := by
  induction bits using List.reverseRecOn with
  | nil => simp [clockIn, fallOfSsn, shownBits, positionAfter, TransmitPosition.start]
  | append_singleton bits b ih =>
    have hstep : clockIn (bits ++ [b]) s = clockBit (clockIn bits s) b := by simp [clockIn]
    rw [hstep, ih]
    simp [clockBit, ReceiveState.bits, shownBits_succ, positionAfter_next]

theorem riseOfSsn_clockIn (bits : List Bool) (s : State) : riseOfSsn (clockIn bits s) = transacted bits.length s := by
  rw [clockIn_eq]
  rfl

/-- A select period with a clock edge: what its frame is decides. -/
theorem selectPeriod_eq {bits : List Bool} (deliver : State → State) (s : State) (h : bits ≠ []) :
    selectPeriod bits deliver s =
      match frameFault (gatherBits bits) with
      | some cause => rejectFrame cause (frameSeq (gatherBits bits)) (transacted bits.length s)
      | none => deliver (transacted bits.length s) := by
  have hne : bits.isEmpty = false := by cases bits <;> simp_all
  have hbits : (clockIn bits s).link.receive.bits = bits := by rw [clockIn_eq]; rfl
  simp only [selectPeriod, hne, hbits, riseOfSsn_clockIn]
  cases frameFault (gatherBits bits) <;> rfl

/-- A select period without a clock edge is no transaction: it shows no bit and leaves the port at rest (R158). -/
theorem selectPeriod_nil (deliver : State → State) (s : State) : selectPeriod [] deliver s = transacted 0 s :=
  riseOfSsn_clockIn [] s

/-! ## The frame of a request -/

/-- The bytes of a request's transaction. -/
def requestBytes (k : RequestKind) (h : LinkHeader) (payload : List Byte) : List Byte :=
  requestRecord k h payload ++ List.replicate h.pad 0

theorem requestBits_eq {i : Instr} {k : RequestKind} {h : LinkHeader} {payload : List Byte}
    (hparts : requestParts i = some (k, h, payload)) : requestBits i = bitsOf (requestBytes k h payload) := by
  simp [requestBits, encodeRequest, hparts, requestBytes]

/-- Every request has the one payload length of its kind. -/
theorem payload_length {i : Instr} {k : RequestKind} {h : LinkHeader} {payload : List Byte}
    (hparts : requestParts i = some (k, h, payload)) : payload.length = k.payload := by
  cases i <;> simp only [requestParts, Option.some.injEq, Prod.mk.injEq, reduceCtorEq] at hparts <;>
    obtain ⟨rfl, -, rfl⟩ := hparts <;> first | rfl | simp [RequestKind.payload]

theorem requestBytes_length {k : RequestKind} {h : LinkHeader} {payload : List Byte} (hlen : payload.length = k.payload) :
    (requestBytes k h payload).length = transactionBytes k h := by
  simp [requestBytes, requestRecord, withCrc, half, hlen, transactionBytes]
  omega

theorem kindOfCode_code (k : RequestKind) : kindOfCode k.code = some k := by cases k <;> rfl

/-- The frame of a request that fits is valid, and one that does not is an OVERRUN frame (R163). -/
theorem frameFault_request {k : RequestKind} {h : LinkHeader} {payload : List Byte} (hlen : payload.length = k.payload) :
    frameFault { bytes := requestBytes k h payload, extraBits := 0 } =
      if fits k h then none else some .overrun := by
  have hsize := requestBytes_length (h := h) hlen
  by_cases hfit : fits k h
  · have hle : transactionBytes k h ≤ 48 := hfit
    have hbits : ¬ frameBits { bytes := requestBytes k h payload, extraBits := 0 } > 384 := by
      simp only [frameBits, hsize]
      simp
      omega
    have hbody : (k.payload + 3 : Nat) = ([k.code, h.seq ++ h.mode, BitVec.ofNat 8 k.payload] ++ payload).length := by
      simp [hlen]
    have hform : requestBytes k h payload =
        ([k.code, h.seq ++ h.mode, BitVec.ofNat 8 k.payload] ++ payload)
          ++ (half (crc16 ([k.code, h.seq ++ h.mode, BitVec.ofNat 8 k.payload] ++ payload))
            ++ List.replicate h.pad 0) := by
      simp [requestBytes, requestRecord, withCrc]
    have hpay : (BitVec.ofNat 8 k.payload : Byte).toNat = k.payload := by cases k <;> rfl
    have htake : (requestBytes k h payload).take (k.payload + 3) =
        [k.code, h.seq ++ h.mode, BitVec.ofNat 8 k.payload] ++ payload := by
      rw [hform, hbody, List.take_left]
    have hdrop : ((requestBytes k h payload).drop (k.payload + 3)).take 2 =
        half (crc16 ([k.code, h.seq ++ h.mode, BitVec.ofNat 8 k.payload] ++ payload)) := by
      rw [hform, hbody, List.drop_left]
      rfl
    have hlong : ¬ (requestBytes k h payload).length < k.payload + 5 := by
      rw [hsize]
      simp [transactionBytes]
    have hfault : bodyFault k (requestBytes k h payload) = none := by
      obtain ⟨tail, htail⟩ : ∃ tail, requestBytes k h payload =
          k.code :: (h.seq ++ h.mode) :: BitVec.ofNat 8 k.payload :: tail := ⟨_, hform⟩
      rw [htail] at htake hdrop hlong ⊢
      simp only [bodyFault, hpay, ne_eq, not_true_eq_false, if_false, hlong, htake, hdrop]
    obtain ⟨tail, htail⟩ : ∃ tail, requestBytes k h payload = k.code :: tail := ⟨_, hform⟩
    simp only [frameFault, if_neg hbits, hfit, if_true]
    rw [htail] at hfault ⊢
    simp [kindOfCode_code, hfault]
  · have hgt : ¬ transactionBytes k h ≤ 48 := hfit
    have hbits : frameBits { bytes := requestBytes k h payload, extraBits := 0 } > 384 := by
      simp only [frameBits, hsize]
      simp
      omega
    simp only [frameFault, if_pos hbits, if_neg hfit]

/-- The sequence number an OVERRUN request's LINK_ERROR echoes is the request's. -/
theorem frameSeq_request (k : RequestKind) (h : LinkHeader) (payload : List Byte) :
    frameSeq { bytes := requestBytes k h payload, extraBits := 0 } = h.seq := by
  have hform : ∃ tail, requestBytes k h payload = k.code :: (h.seq ++ h.mode) :: tail := ⟨_, rfl⟩
  obtain ⟨tail, htail⟩ := hform
  simp only [frameSeq, htail]
  generalize h.seq = a
  generalize h.mode = b
  revert a b
  decide

/-! ## Transactions -/

/-- The state in which a request is performed: the pending reply clocked out, silence count 0, mode code handed. -/
def received (k : RequestKind) (h : LinkHeader) (s : State) : State :=
  takeFrame h (transacted (8 * transactionBytes k h) s)

theorem requestBits_length {i : Instr} {k : RequestKind} {h : LinkHeader} {payload : List Byte}
    (hparts : requestParts i = some (k, h, payload)) : (requestBits i).length = 8 * transactionBytes k h := by
  rw [requestBits_eq hparts, bitsOf_length, requestBytes_length (payload_length hparts)]

/-- A running part's transaction of a request: performed where it fits, rejected as an OVERRUN frame where not. -/
theorem transact_eq {i : Instr} {k : RequestKind} {h : LinkHeader} {payload : List Byte} {s : State}
    (perform : State → Performed) (hparts : requestParts i = some (k, h, payload)) (hheld : s.held = false) :
    transact i h perform s =
      if fits k h then .next ((perform (received k h s)).state.setReply (perform (received k h s)).reply)
      else .next (rejectFrame .overrun h.seq (transacted (8 * transactionBytes k h) s)) := by
  have hlen := requestBits_length hparts
  have hne : requestBits i ≠ [] := by
    intro h0
    rw [h0] at hlen
    simp [transactionBytes] at hlen
  simp only [transact, selectPart, hheld, Bool.false_eq_true, if_false, selectPeriod_eq _ s hne, hlen]
  rw [requestBits_eq hparts, gatherBits_bitsOf, frameFault_request (payload_length hparts)]
  by_cases hfit : fits k h
  · simp only [if_pos hfit]
    rfl
  · simp only [if_neg hfit, frameSeq_request]

/-- A transaction that fits and meets a running part performs its request. -/
theorem transact_performs {i : Instr} {k : RequestKind} {h : LinkHeader} {payload : List Byte} {s : State}
    (perform : State → Performed) (hparts : requestParts i = some (k, h, payload)) (hheld : s.held = false)
    (hfit : fits k h) :
    transact i h perform s =
      .next ((perform (received k h s)).state.setReply (perform (received k h s)).reply) := by
  rw [transact_eq perform hparts hheld, if_pos hfit]

/-- A transaction longer than 48 bytes is rejected as an OVERRUN frame. -/
theorem transact_overruns {i : Instr} {k : RequestKind} {h : LinkHeader} {payload : List Byte} {s : State}
    (perform : State → Performed) (hparts : requestParts i = some (k, h, payload)) (hheld : s.held = false)
    (hfit : ¬fits k h) :
    transact i h perform s = .next (rejectFrame .overrun h.seq (transacted (8 * transactionBytes k h) s)) := by
  rw [transact_eq perform hparts hheld, if_neg hfit]

/-- What a part held in reset lets pass changes the SDO record and the receive state and nothing else. -/
theorem letPass_eq (r : ReceiveState) (s : State) :
    letPass r s = { s with sdo := [], link := { s.link with receive := r } } := rfl

@[simp] theorem letPass_link (r : ReceiveState) (s : State) : (letPass r s).link = { s.link with receive := r } := rfl

@[simp] theorem letPass_sdo (r : ReceiveState) (s : State) : (letPass r s).sdo = [] := rfl

/-- A part held in reset takes no transaction. -/
theorem transact_held {i : Instr} {h : LinkHeader} {s : State} (perform : State → Performed) (hheld : s.held = true) :
    transact i h perform s = .next (letPass .idle s) := by
  simp [transact, selectPart, hheld]

/-- Whatever the request did, its frame was taken, as long as it left what is not a block's to the link port. -/
theorem frameTaken_of_linkKept {k : RequestKind} {h : LinkHeader} {s u : State} (r : Reply)
    (hu : linkKept (received k h s) u) : frameTaken k h s (u.setReply r) := by
  obtain ⟨h0, h1, h2, h3, h4, h5, h6⟩ := hu
  simp [frameTaken, h0, h1, h2, h3, h4, h5, h6, received, TransmitPosition.start]

/-- A request that hands back a state and a reply answers with that state, its frame taken. -/
theorem transact_answers {i : Instr} {k : RequestKind} {h : LinkHeader} {payload : List Byte} {s u : State} {r : Reply}
    {perform : State → Performed} (hparts : requestParts i = some (k, h, payload)) (hheld : s.held = false)
    (hfit : fits k h) (hp : perform (received k h s) = ⟨u, r⟩) (hu : linkKept (received k h s) u) :
    transact i h perform s = .next (u.setReply r) ∧ frameTaken k h s (u.setReply r) := by
  refine ⟨?_, frameTaken_of_linkKept r hu⟩
  rw [transact_performs perform hparts hheld hfit, hp]

/-- A reply DONE formed in the state a request leaves answers it. -/
theorem answeredDone_setReply (h : LinkHeader) (payload : List Byte) (u : State) :
    answeredDone h payload (u.setReply (replyIn u h .done payload)) := rfl

/-- A refusal formed in a state answers it. -/
theorem answeredRefused_setReply (h : LinkHeader) (code : RefusalCode) (u : State) :
    answeredRefused h code (u.setReply (replyIn u h .refused [code.code])) := rfl

/-- The state a request is performed in has every block as it was. -/
theorem blocksKept_received (k : RequestKind) (h : LinkHeader) (s : State) (r : Reply) :
    blocksKept s ((received k h s).setReply r) := ⟨rfl, rfl, rfl, rfl, rfl, rfl, rfl, rfl⟩

theorem linkKept_refl (s : State) : linkKept s s := ⟨rfl, rfl, rfl, rfl, rfl, rfl, rfl⟩

/-- A request that is refused changes nothing but the link port and the mode selector. -/
theorem transact_refuses {i : Instr} {k : RequestKind} {h : LinkHeader} {payload : List Byte} {s : State}
    {code : RefusalCode} {perform : State → Performed} (hparts : requestParts i = some (k, h, payload))
    (hheld : s.held = false) (hfit : fits k h) (hp : perform (received k h s) = refuse h code (received k h s)) :
    ∃ t, transact i h perform s = .next t ∧ frameTaken k h s t ∧ answeredRefused h code t ∧ blocksKept s t := by
  obtain ⟨hrun, hframe⟩ := transact_answers hparts hheld hfit hp (linkKept_refl _)
  exact ⟨_, hrun, hframe, answeredRefused_setReply h code _, blocksKept_received k h s _⟩

/-- A request that is answered DONE leaves the state it handed back, its frame taken and its reply formed in it. -/
theorem transact_done {i : Instr} {k : RequestKind} {h : LinkHeader} {payload answer : List Byte} {s u : State}
    {perform : State → Performed} (hparts : requestParts i = some (k, h, payload)) (hheld : s.held = false)
    (hfit : fits k h) (hp : perform (received k h s) = answerDone h answer u) (hu : linkKept (received k h s) u) :
    ∃ r, transact i h perform s = .next (u.setReply r) ∧ frameTaken k h s (u.setReply r) ∧
      answeredDone h answer (u.setReply r) := by
  obtain ⟨hrun, hframe⟩ := transact_answers hparts hheld hfit hp hu
  exact ⟨_, hrun, hframe, answeredDone_setReply h answer u⟩

/-- A command of a timer or a pin has its effect on a part that runs, and none on a part held in reset. -/
theorem whenRunning_running {f : State → State} {s : State} (hheld : s.held = false) : whenRunning f s = .next (f s) := by
  simp [whenRunning, hheld]

theorem whenRunning_held {f : State → State} {s : State} (hheld : s.held = true) : whenRunning f s = .next s := by
  simp [whenRunning, hheld]

/-- A row that names an occasion is that step where the occasion is at hand, and nothing else. -/
theorem whenOccurs_at {occasion : State → Bool} {f : State → State} {s : State} (hheld : s.held = false)
    (h : occasion s = true) : whenOccurs occasion f s = .next (f s) := by
  simp [whenOccurs, whenRunning, hheld, h]

theorem whenOccurs_not {occasion : State → Bool} {f : State → State} {s : State} (h : occasion s = false) :
    whenOccurs occasion f s = .next s := by
  cases hs : s.held <;> simp [whenOccurs, whenRunning, hs, h]

end Sys2Proof.Machine
end

