-- ==== Sys2Proof/Laws/Memory.lean ====
section
/-! SUPPORT. The image memories: what a read gives after a write, and that every operation keeps the canonical form. -/

namespace Sys2Proof.Machine

open Sys2Proof

/-! ## One cell -/

@[simp] theorem Memory.read_nil (a : Nat) : Memory.read [] a = 0 := rfl

theorem Memory.read_cons (k : Nat) (v : Byte) (m : Memory) (a : Nat) :
    Memory.read ((k, v) :: m) a = if k = a then v else Memory.read m a := rfl

/-- Reading an offset that no cell of the list carries. -/
theorem Memory.read_of_not_mem {m : Memory} {a : Nat} (h : a ∉ m.map Prod.fst) : m.read a = 0 := by
  induction m with
  | nil => rfl
  | cons cell rest ih =>
    obtain ⟨k, v⟩ := cell
    simp only [List.map_cons, List.mem_cons, not_or] at h
    rw [Memory.read_cons, if_neg (fun hk => h.1 hk.symm), ih h.2]

theorem Memory.read_cellOf_append (a c : Nat) (b : Byte) (m : Memory) (h : a ∉ m.map Prod.fst) :
    Memory.read (Memory.cellOf a b ++ m) c = if c = a then b else m.read c := by
  by_cases hb : b = 0
  · by_cases hc : c = a
    · subst hc
      simp [Memory.cellOf, hb, Memory.read_of_not_mem h]
    · simp [Memory.cellOf, hb, hc]
  · simp only [Memory.cellOf, hb, if_false, List.singleton_append, Memory.read_cons, eq_comm]

/-- A write leaves every other offset as it reads. -/
theorem Memory.read_write_ne (m : Memory) {a c : Nat} (b : Byte) (h : c ≠ a) : (m.write a b).read c = m.read c := by
  have hcell : ∀ n : Memory, Memory.read (Memory.cellOf a b ++ n) c = n.read c := by
    intro n
    by_cases hb : b = 0
    · simp [Memory.cellOf, hb]
    · simp only [Memory.cellOf, hb, if_false, List.singleton_append, Memory.read_cons, if_neg (Ne.symm h)]
  induction m with
  | nil => simpa [Memory.write] using hcell []
  | cons cell rest ih =>
    obtain ⟨k, v⟩ := cell
    simp only [Memory.write]
    split
    · rw [hcell]
    · split
      · rename_i hk
        rw [hcell, Memory.read_cons, if_neg (fun hkc => h (hkc.symm.trans hk.symm))]
      · rw [Memory.read_cons, Memory.read_cons, ih]

/-- The addresses of a canonical memory behind its first cell lie above it. -/
theorem Memory.wf_cons {k : Nat} {v : Byte} {m : Memory} :
    Memory.wf ((k, v) :: m) ↔ (∀ c ∈ m.map Prod.fst, k < c) ∧ (k < imageBytes ∧ v ≠ 0) ∧ m.wf := by
  simp only [Memory.wf, List.map_cons, List.pairwise_cons, List.mem_cons, forall_eq_or_imp]
  tauto

theorem Memory.wf_nil : Memory.wf [] := by simp [Memory.wf]

/-- The addresses after a write are those before it and perhaps the one written. -/
theorem Memory.mem_write {m : Memory} {a c : Nat} {b : Byte} (h : c ∈ (m.write a b).map Prod.fst) :
    c = a ∨ c ∈ m.map Prod.fst := by
  have hcell : ∀ n : Memory, c ∈ (Memory.cellOf a b ++ n).map Prod.fst → c = a ∨ c ∈ n.map Prod.fst := by
    intro n hn
    by_cases hb : b = 0 <;> simp [Memory.cellOf, hb] at hn ⊢ <;> tauto
  induction m with
  | nil => exact hcell [] (by simpa [Memory.write] using h)
  | cons cell rest ih =>
    obtain ⟨k, v⟩ := cell
    simp only [Memory.write] at h
    split at h
    · exact hcell _ h
    · split at h
      · rcases hcell _ h with hc | hc
        · exact .inl hc
        · exact .inr (List.mem_cons_of_mem _ hc)
      · simp only [List.map_cons, List.mem_cons] at h ⊢
        rcases h with h | h
        · exact .inr (.inl h)
        · rcases ih h with hc | hc
          · exact .inl hc
          · exact .inr (.inr hc)

theorem Memory.wf_cellOf_append {m : Memory} {a : Nat} {b : Byte} (ha : a < imageBytes)
    (hm : m.wf) (h : ∀ c ∈ m.map Prod.fst, a < c) : Memory.wf (Memory.cellOf a b ++ m) := by
  by_cases hb : b = 0
  · simpa [Memory.cellOf, hb] using hm
  · simp only [Memory.cellOf, hb, if_false, List.singleton_append]
    exact Memory.wf_cons.2 ⟨h, ⟨ha, hb⟩, hm⟩

/-- A write within the image keeps the canonical form. -/
theorem Memory.wf_write {m : Memory} {a : Nat} (b : Byte) (ha : a < imageBytes) (hm : m.wf) : (m.write a b).wf := by
  induction m with
  | nil => simpa [Memory.write] using Memory.wf_cellOf_append (b := b) ha Memory.wf_nil (by simp)
  | cons cell rest ih =>
    obtain ⟨k, v⟩ := cell
    have hcell := Memory.wf_cons.1 hm
    simp only [Memory.write]
    split
    · rename_i hak
      refine Memory.wf_cellOf_append ha hm ?_
      intro c hc
      simp only [List.map_cons, List.mem_cons] at hc
      rcases hc with hc | hc
      · omega
      · exact lt_trans hak (hcell.1 c hc)
    · split
      · rename_i hak
        subst hak
        exact Memory.wf_cellOf_append ha hcell.2.2 hcell.1
      · refine Memory.wf_cons.2 ⟨?_, hcell.2.1, ih hcell.2.2⟩
        intro c hc
        rcases Memory.mem_write hc with h | h
        · omega
        · exact hcell.1 c h

/-- A read after a write to the same offset of a canonical memory gives the byte written. -/
theorem Memory.read_write_self {m : Memory} (a : Nat) (b : Byte) (hm : m.wf) : (m.write a b).read a = b := by
  induction m with
  | nil =>
    simp only [Memory.write]
    simpa using Memory.read_cellOf_append a a b [] (by simp)
  | cons cell rest ih =>
    obtain ⟨k, v⟩ := cell
    have hcell := Memory.wf_cons.1 hm
    simp only [Memory.write]
    split
    · rename_i hak
      rw [Memory.read_cellOf_append, if_pos rfl]
      intro hc
      simp only [List.map_cons, List.mem_cons] at hc
      rcases hc with hc | hc
      · omega
      · have := hcell.1 a hc
        omega
    · split
      · rename_i hak
        rw [Memory.read_cellOf_append, if_pos rfl]
        intro hc
        have := hcell.1 a hc
        omega
      · rename_i hne
        rw [Memory.read_cons, if_neg (Ne.symm hne), ih hcell.2.2]

/-- What a write can do to a read. -/
theorem Memory.read_write {m : Memory} (a c : Nat) (b : Byte) (hm : m.wf) :
    (m.write a b).read c = if c = a then b else m.read c := by
  split
  · rename_i h
    rw [h, Memory.read_write_self a b hm]
  · rename_i h
    exact Memory.read_write_ne m b h

/-- No offset at or past the end of the image holds a byte. -/
theorem Memory.read_of_le {m : Memory} (hm : m.wf) {a : Nat} (ha : imageBytes ≤ a) : m.read a = 0 := by
  refine Memory.read_of_not_mem ?_
  intro hmem
  obtain ⟨cell, hcell, rfl⟩ := List.mem_map.1 hmem
  have := (hm.2 cell hcell).1
  omega

/-! ## Consecutive bytes -/

theorem Memory.wf_writeBytes {m : Memory} {a : Nat} (l : List Byte) (ha : a + l.length ≤ imageBytes) (hm : m.wf) :
    (m.writeBytes a l).wf := by
  induction l generalizing m a with
  | nil => exact hm
  | cons b rest ih =>
    simp only [List.length_cons] at ha
    exact ih (by omega) (Memory.wf_write b (by omega) hm)

/-- What a write of consecutive bytes can do to a read. -/
theorem Memory.read_writeBytes {m : Memory} {a : Nat} (l : List Byte) (c : Nat) (ha : a + l.length ≤ imageBytes)
    (hm : m.wf) :
    (m.writeBytes a l).read c = if a ≤ c ∧ c < a + l.length then l.getD (c - a) 0 else m.read c := by
  induction l generalizing m a with
  | nil =>
    simp only [Memory.writeBytes, List.length_nil]
    rw [if_neg (by omega)]
  | cons b rest ih =>
    simp only [List.length_cons] at ha ⊢
    simp only [Memory.writeBytes]
    rw [ih (by omega) (Memory.wf_write b (by omega) hm), Memory.read_write a c b hm]
    by_cases hc : c = a
    · subst hc
      rw [if_neg (by omega), if_pos rfl, if_pos (by omega)]
      simp
    · by_cases hin : a + 1 ≤ c ∧ c < a + 1 + rest.length
      · rw [if_pos hin, if_pos (by omega)]
        obtain ⟨n, rfl⟩ := Nat.exists_eq_add_of_le hin.1
        have h1 : a + 1 + n - (a + 1) = n := by omega
        have h2 : a + 1 + n - a = n + 1 := by omega
        rw [h1, h2, List.getD_cons_succ]
      · rw [if_neg hin, if_neg hc, if_neg (by omega)]

/-! ## Single cells -/

theorem Memory.wf_writeCells {m : Memory} (cells : List (Nat × Byte)) (h : ∀ cell ∈ cells, cell.1 < imageBytes)
    (hm : m.wf) : (m.writeCells cells).wf := by
  induction cells generalizing m with
  | nil => exact hm
  | cons cell rest ih =>
    obtain ⟨a, b⟩ := cell
    simp only [List.mem_cons, forall_eq_or_imp] at h
    exact ih h.2 (Memory.wf_write b h.1 hm)

/-- Cells written elsewhere leave an offset as it reads. -/
theorem Memory.read_writeCells_ne (m : Memory) {cells : List (Nat × Byte)} {a : Nat}
    (h : ∀ cell ∈ cells, cell.1 ≠ a) : (m.writeCells cells).read a = m.read a := by
  induction cells generalizing m with
  | nil => rfl
  | cons cell rest ih =>
    obtain ⟨k, b⟩ := cell
    simp only [List.mem_cons, forall_eq_or_imp] at h
    simp only [Memory.writeCells]
    rw [ih _ h.2, Memory.read_write_ne m b (Ne.symm h.1)]

/-! ## Whole images -/

/-- The cells of consecutive offsets, in their order, before a memory that lies above them. -/
theorem Memory.wf_flatMap_range' (f : Nat → Byte) (a n : Nat) (h : a + n ≤ imageBytes) :
    Memory.wf ((List.range' a n).flatMap fun k => Memory.cellOf k (f k)) ∧
      ∀ c ∈ (((List.range' a n).flatMap fun k => Memory.cellOf k (f k)) : Memory).map Prod.fst, a ≤ c := by
  induction n generalizing a with
  | zero => exact ⟨Memory.wf_nil, by simp⟩
  | succ n ih =>
    obtain ⟨hwf, hle⟩ := ih (a + 1) (by omega)
    rw [List.range'_succ, List.flatMap_cons]
    refine ⟨Memory.wf_cellOf_append (by omega) hwf fun c hc => by have := hle c hc; omega, ?_⟩
    intro c hc
    rw [List.map_append, List.mem_append] at hc
    rcases hc with hc | hc
    · by_cases hb : f a = 0 <;> simp [Memory.cellOf, hb] at hc
      omega
    · have := hle c hc
      omega

theorem Memory.read_flatMap_range' (f : Nat → Byte) (a n c : Nat) (h : a + n ≤ imageBytes) :
    Memory.read ((List.range' a n).flatMap fun k => Memory.cellOf k (f k)) c =
      if a ≤ c ∧ c < a + n then f c else 0 := by
  induction n generalizing a with
  | zero => rw [if_neg (by omega)]; rfl
  | succ n ih =>
    have hle := (Memory.wf_flatMap_range' f (a + 1) n (by omega)).2
    rw [List.range'_succ, List.flatMap_cons, Memory.read_cellOf_append _ _ _ _ (fun hc => by have := hle a hc; omega),
      ih (a + 1) (by omega)]
    by_cases hc : c = a
    · subst hc
      rw [if_pos rfl, if_pos (by omega)]
    · rw [if_neg hc]
      by_cases hin : a + 1 ≤ c ∧ c < a + 1 + n
      · rw [if_pos hin, if_pos (by omega)]
      · rw [if_neg hin, if_neg (by omega)]

/-- An image given byte by byte is canonical. -/
theorem Memory.wf_ofFn (f : Nat → Byte) : (Memory.ofFn f).wf := by
  rw [Memory.ofFn, List.range_eq_range']
  exact (Memory.wf_flatMap_range' f 0 imageBytes (by omega)).1

/-- An image given byte by byte reads as given. -/
theorem Memory.read_ofFn (f : Nat → Byte) (a : Nat) :
    (Memory.ofFn f).read a = if a < imageBytes then f a else 0 := by
  rw [Memory.ofFn, List.range_eq_range', Memory.read_flatMap_range' f 0 imageBytes a (by omega)]
  simp

/-! ## The memories of the part -/

/-- What a store writes is canonical. -/
theorem writtenImage_wf {m : Memory} (cells : List (Nat × Byte)) (hm : m.wf) : (writtenImage m cells).wf :=
  Memory.wf_writeCells _ (by simp) hm

/-- A reset leaves a canonical nonvolatile image canonical. -/
theorem nvAfterReset_wf {s : State} (h : s.cal.nv.wf) : (nvAfterReset s).wf := by
  simp only [nvAfterReset]
  split
  · exact Memory.wf_ofFn _
  · exact h

/-- An accepted segment leaves a canonical working image canonical. -/
theorem writeSegment_wf {k : CalStore} {index : Nat} (data : Vector Byte 32) (h : index < segmentCount)
    (hk : k.working.wf) : (writeSegment index data k).working.wf := by
  refine Memory.wf_writeBytes _ ?_ hk
  simp only [segmentCount] at h
  simp only [segmentBytes, imageBytes, Vector.length_toList]
  omega

/-- What an accepted segment can do to a read of the working image (R172). -/
theorem writeSegment_read {k : CalStore} {index : Nat} (data : Vector Byte 32) (a : Nat) (h : index < segmentCount)
    (hk : k.working.wf) :
    (writeSegment index data k).working.read a =
      if 32 * index ≤ a ∧ a < 32 * index + 32 then data.toList.getD (a - 32 * index) 0 else k.working.read a := by
  simp only [segmentCount] at h
  simp only [writeSegment, segmentBytes]
  rw [Memory.read_writeBytes _ _ (by simp only [imageBytes, Vector.length_toList]; omega) hk, Vector.length_toList]

/-- The memories after a power-on reset are canonical. -/
theorem reset_memories_wf : State.reset.cal.working.wf ∧ State.reset.cal.nv.wf := ⟨Memory.wf_nil, Memory.wf_nil⟩

end Sys2Proof.Machine
end

