-- ==== Sys2Proof/Laws/Operations.lean ====
section
/-! SUPPORT. What the shared operations of the blocks can do, each said once. -/

namespace Sys2Proof.Machine

open Sys2Proof

/-- A reset leaves the receive state idle, or barred where a select period is open. -/
theorem ReceiveState.cut_eq (r : ReceiveState) : r.cut = if r = .idle then .idle else .barred := by
  cases r <;> rfl

/-- A reset at a supply event is the reset of the blocks, but for the receive state. -/
theorem supplyReset_eq (cause : RestartCause) (s : State) :
    supplyReset cause s =
      { resetBlocks cause s with
        link := { (resetBlocks cause s).link with receive := receiveAfterCut s } } := by
  simp [supplyReset, ReceiveState.cut_eq]

/-! ## Clamps and bytes -/

theorem clampInt_eq (lo hi v : Int) (h : lo ≤ hi) : clampInt lo hi v = max lo (min hi v) := by
  simp only [clampInt]
  split
  · omega
  · split <;> omega

theorem clampNat_eq (lo hi v : Nat) (h : lo ≤ hi) : clampNat lo hi v = max lo (min hi v) := by
  simp only [clampNat]
  split
  · omega
  · split <;> omega

theorem clampInt_mem (lo hi v : Int) (h : lo ≤ hi) : lo ≤ clampInt lo hi v ∧ clampInt lo hi v ≤ hi := by
  rw [clampInt_eq lo hi v h]
  omega

theorem bitsByte_getLsbD_corner (v : PerCorner Bool) (c : Corner) : (cornerSetByte v).getLsbD c.index = v.get c := by
  obtain ⟨a, b, d, e⟩ := v
  revert a b d e
  cases c <;> decide

/-- A two-byte field is read back as it was sent. -/
theorem joinBytes_half (h : Half) : joinBytes (h.extractLsb' 8 8) (h.extractLsb' 0 8) = h := by
  ext i hi
  simp only [joinBytes]
  rw [BitVec.getElem_append]
  split
  · simp [BitVec.getLsbD_eq_getElem hi]
  · rename_i hle
    have h8 : 8 + (i - 8) = i := by omega
    simp [h8, BitVec.getLsbD_eq_getElem hi]

@[simp] theorem half_length (h : Half) : (half h).length = 2 := rfl

/-! ## The CRC -/

theorem crc16_eq_foldl_bits (bytes : List Byte) (reg : BitVec 16) :
    bytes.foldl crcByte reg = (bytes.flatMap byteBits).foldl crcBit reg := by
  induction bytes generalizing reg with
  | nil => rfl
  | cons b rest ih =>
    rw [List.foldl_cons, ih, List.flatMap_cons, List.foldl_append]
    rfl

/-- One bit of the register taken into itself shifts it: the bit shifted out equals the data bit. -/
theorem crcBit_self (reg : BitVec 16) : crcBit reg reg.msb = reg <<< 1 := by
  simp [crcBit]

@[simp] theorem withCrc_length (bytes : List Byte) : (withCrc bytes).length = bytes.length + 2 := by
  simp [withCrc]

theorem code_of_kindOfCode {b : Byte} {k : RequestKind} (h : kindOfCode b = some k) : k.code = b := by
  revert b k
  decide +kernel

/-! ## Mode selector -/

/-- The codes 0..3 are the modes' codes. -/
theorem modeOfCode_eq_some {code : BitVec 4} {m : Mode} : modeOfCode code = some m ↔ m.code = code.toNat := by
  revert code m
  have h : ∀ (code : BitVec 4), (modeOfCode code = some .comfort ↔ Mode.code .comfort = code.toNat) ∧
      (modeOfCode code = some .normal ↔ Mode.code .normal = code.toNat) ∧
      (modeOfCode code = some .sport ↔ Mode.code .sport = code.toNat) ∧
      (modeOfCode code = some .dynamic ↔ Mode.code .dynamic = code.toNat) := by decide
  intro code m
  cases m
  · exact (h code).1
  · exact (h code).2.1
  · exact (h code).2.2.1
  · exact (h code).2.2.2

/-! ## Fault summaries -/

theorem noteFaultRise_eq (before after : State) :
    noteFaultRise before after =
      { after with sup := { after.sup with faultNew := after.sup.faultNew || summaryRises before after } } := by
  simp only [noteFaultRise]
  split <;> simp_all [State.setSup]

/-- An operation that keeps the summaries of the other corners raises one exactly where it raises this one's. -/
theorem summaryRises_one {before after : State} {c : Corner}
    (h : ∀ d, d ≠ c → after.faultSummary d = before.faultSummary d) :
    summaryRises before after = (!before.faultSummary c && after.faultSummary c) := by
  simp only [summaryRises, Corner.all, List.any_cons, List.any_nil]
  cases c <;> simp [h]

/-! ## Transitions -/

theorem flush_flushed (s : State) : flushed s (flush s) := ⟨rfl, fun c => by simp [clearArbitration]⟩

theorem driveDropped_eq (d : Drive) : driveDropped d = if d.state.driving then switchedOff d else d := by
  cases h : d.state <;> simp [driveDropped, DriveState.driving, switchedOff, h]

theorem enterRegulating_eq (d : Drive) : enterRegulating d = switchedOn d := rfl

theorem driveSelected_eq (d : Drive) : driveSelected d = if d.state = .off then switchedOn d else d := rfl

theorem enterStandby_entered (s : State) : standbyEntered s (enterStandby s) := by
  refine ⟨rfl, fun c => ?_, fun c => by simp [enterStandby], rfl, rfl, rfl, rfl, rfl⟩
  simp only [enterStandby, PerCorner.get_map, driveDropped_eq]
  split <;> rfl

theorem enterStandby_linkKept (s : State) : linkKept s (enterStandby s) := ⟨rfl, rfl, rfl, rfl, rfl, rfl, rfl⟩

theorem enterLimp_entered (r : LimpReason) (s : State) : limpEnteredWith r s (enterLimp r s) :=
  ⟨rfl, fun c => by simp [enterLimp], ⟨rfl, fun c => by simp [enterLimp, clearArbitration]⟩, rfl, rfl, rfl, rfl⟩

theorem enterLimp_linkKept (r : LimpReason) (s : State) : linkKept s (enterLimp r s) :=
  ⟨rfl, rfl, rfl, rfl, rfl, rfl, rfl⟩

theorem addLimpReason_eq (r : LimpReason) (s : State) : s.addLimpReason r = reasonAdded r s := rfl

/-- What the supervisor does with a cause of LIMP, by part state. -/
theorem takeLimpCause_active {r : LimpReason} {s : State} (h : s.sup.part = .active) :
    takeLimpCause r s = enterLimp r s := by simp only [takeLimpCause, h]

theorem takeLimpCause_limp {r : LimpReason} {s : State} (h : s.sup.part = .limp) :
    takeLimpCause r s = reasonAdded r s := by
  simp only [takeLimpCause, h]
  rfl

theorem takeLimpCause_else {r : LimpReason} {s : State} (h1 : s.sup.part ≠ .active) (h2 : s.sup.part ≠ .limp) :
    takeLimpCause r s = s := by
  simp only [takeLimpCause]
  split <;> first | contradiction | rfl

theorem takeLimpCause_handed (s : State) : faultHanded s (takeLimpCause .cornerFault s) := by
  refine ⟨fun h => ?_, fun h => takeLimpCause_limp h, fun h1 h2 => takeLimpCause_else h1 h2⟩
  rw [takeLimpCause_active h]
  exact ⟨enterLimp_entered _ _, enterLimp_linkKept _ _⟩

/-- A control period in STOPPING that leaves every corner at rest ends the state; no other period does. -/
theorem endStoppingAtRest_eq (s : State) :
    (s.sup.part = .stopping ∧ (∀ c, (s.law.get c).cOut = 0) ∧ endStoppingAtRest s = enterStandby s) ∨
      (¬(s.sup.part = .stopping ∧ ∀ c, (s.law.get c).cOut = 0) ∧ endStoppingAtRest s = s) := by
  have hrest : allAtRest s = true ↔ ∀ c, (s.law.get c).cOut = 0 := by
    rw [Corner.forall_iff]
    simp [allAtRest, Corner.all]
  by_cases h : s.sup.part = .stopping ∧ ∀ c, (s.law.get c).cOut = 0
  · exact .inl ⟨h.1, h.2, by simp only [endStoppingAtRest]; exact if_pos ⟨h.1, hrest.2 h.2⟩⟩
  · exact .inr ⟨h, by simp only [endStoppingAtRest]; exact if_neg fun hc => h ⟨hc.1, hrest.1 hc.2⟩⟩

/-- Ending STOPPING does not touch what a control period acquired. -/
theorem endStoppingAtRest_acq (s : State) : (endStoppingAtRest s).acq = s.acq := by
  simp only [endStoppingAtRest]
  split <;> rfl

/-- A change of the image state to VALID unsets every filter; any other leaves the acquisition alone. -/
theorem setImageState_acq (st : ImageState) (s : State) (c : Corner) :
    ((setImageState st s).acq.get c) =
      if st = .valid then { s.acq.get c with filter := none, vRel := 0 } else s.acq.get c := by
  simp only [setImageState]
  split <;> simp [unsetFilter]

/-! ## Periods -/

/-- A control period outside START. -/
theorem controlPeriod_eq {s : State} {c : Corner} {a : BitVec 12} (h : s.sup.part ≠ .start) :
    controlPeriod c a s = endStoppingAtRest (noteFaultRise s (cornerPeriod c a s)) := if_neg h

/-- A corner's results of a period keep its limiter memory at its c_out (R34). -/
theorem lawStages_cPrev (i : PeriodInputs) (c : Corner) (q : Acquisition) (l : LawResults) :
    (lawStages i c q l).cPrev = (lawStages i c q l).cOut := by
  simp only [lawStages]
  split <;> rfl

/-- The summaries of the other corners are not a corner's period's. -/
theorem cornerPeriod_faultSummary_ne (s : State) (c : Corner) (a : BitVec 12) {d : Corner} (h : d ≠ c) :
    (cornerPeriod c a s).faultSummary d = s.faultSummary d := by
  simp [State.faultSummary, cornerPeriod, h]

/-- The stage step of a drive period, before the supervisor takes a fault. -/
def stageStep (c : Corner) (current : Nat) (s : State) : State :=
  noteFaultRise s (s.setDrive c (periodStage c current s))

theorem drivePeriod_eq (c : Corner) (current : Nat) (s : State) :
    drivePeriod c current s =
      if faultEntered (s.drive.get c) (periodStage c current s) then takeLimpCause .cornerFault (stageStep c current s)
      else stageStep c current s := rfl

theorem stageStep_stageStepped (c : Corner) (current : Nat) (s : State) : stageStepped c s (stageStep c current s) := by
  have hone : summaryRises s (s.setDrive c (periodStage c current s)) =
      (!s.faultSummary c && (s.setDrive c (periodStage c current s)).faultSummary c) :=
    summaryRises_one fun d hd => by simp [State.faultSummary, hd]
  have hsame : (stageStep c current s).faultSummary c =
      (s.setDrive c (periodStage c current s)).faultSummary c := by
    simp [stageStep, noteFaultRise_eq, State.faultSummary]
  simp only [stageStepped, hsame]
  rw [stageStep, noteFaultRise_eq, hone]
  simp [State.setDrive]

@[simp] theorem stageStep_drive (c : Corner) (current : Nat) (s : State) :
    (stageStep c current s).drive.get c = periodStage c current s := by
  simp [stageStep, noteFaultRise_eq]

/-! ## Accounts and postings -/

/-- An account of retirements changes counts and the orphan count, and no list but by its events' counts. -/
theorem accountAll_keeps (rs : List Retirement) (sch : Scheduler) :
    (accountAll rs sch).pendingWindows = sch.pendingWindows ∧ (accountAll rs sch).completions = sch.completions ∧
      (accountAll rs sch).carry = sch.carry ∧ (accountAll rs sch).msCount = sch.msCount ∧
      (accountAll rs sch).admissionNo = sch.admissionNo ∧
      (accountAll rs sch).events.map Event.tag = sch.events.map Event.tag := by
  induction rs generalizing sch with
  | nil => exact ⟨rfl, rfl, rfl, rfl, rfl, rfl⟩
  | cons r rest ih =>
    have hone : (accountRetirement sch r).pendingWindows = sch.pendingWindows ∧
        (accountRetirement sch r).completions = sch.completions ∧ (accountRetirement sch r).carry = sch.carry ∧
        (accountRetirement sch r).msCount = sch.msCount ∧ (accountRetirement sch r).admissionNo = sch.admissionNo ∧
        (accountRetirement sch r).events.map Event.tag = sch.events.map Event.tag := by
      simp only [accountRetirement]
      split
      · exact ⟨rfl, rfl, rfl, rfl, rfl, rfl⟩
      · refine ⟨rfl, rfl, rfl, rfl, rfl, ?_⟩
        simp only [List.map_map]
        refine List.map_congr_left fun e _ => ?_
        simp only [Function.comp]
        split
        · simp only [Event.count]
          split <;> rfl
        · rfl
    obtain ⟨h1, h2, h3, h4, h5, h6⟩ := ih (accountRetirement sch r)
    obtain ⟨g1, g2, g3, g4, g5, g6⟩ := hone
    exact ⟨h1.trans g1, h2.trans g2, h3.trans g3, h4.trans g4, h5.trans g5, h6.trans g6⟩

/-- An account lowers the orphan count by one for each orphan retired (R57). -/
theorem accountAll_orphanCount (rs : List Retirement) (sch : Scheduler) :
    (accountAll rs sch).orphanCount = sch.orphanCount - (rs.filter fun r => isOrphan r.win).length := by
  induction rs generalizing sch with
  | nil => rfl
  | cons r rest ih =>
    have hstep : accountAll (r :: rest) sch = accountAll rest (accountRetirement sch r) := rfl
    rw [hstep, ih]
    simp only [accountRetirement, isOrphan, List.filter_cons]
    cases hp : r.win.parent with
    | orphan =>
      simp only [beq_self_eq_true, if_true, List.length_cons]
      omega
    | event tag => simp

/-- Accounting no retirement of the windows of an event leaves its counts. -/
theorem accountAll_cancelled (ws : List Window) (o : WindowOutcome) (ho : o = .cancelled ∨ o = .expired)
    (sch : Scheduler) :
    (accountAll (ws.map fun w => { win := w, outcome := o }) sch).events = sch.events := by
  induction ws generalizing sch with
  | nil => rfl
  | cons w rest ih =>
    have hstep : accountAll ((w :: rest).map fun w => { win := w, outcome := o }) sch =
        accountAll (rest.map fun w => { win := w, outcome := o }) (accountRetirement sch { win := w, outcome := o }) := rfl
    rw [hstep, ih]
    simp only [accountRetirement]
    split
    · rfl
    · have hadd : ∀ k : OutcomeCounts, k.add o = k := by
        rcases ho with rfl | rfl <;> intro k <;> rfl
      have hcount : ∀ e : Event, e.count w.corner o = e := by
        intro e
        simp only [Event.count, hadd]
        split <;> rfl
      simp [hcount]

/-! ## Orders -/

theorem insertBy_perm {α : Type} (lt : α → α → Bool) (x : α) (l : List α) : (insertBy lt x l).Perm (x :: l) := by
  induction l with
  | nil => exact List.Perm.refl _
  | cons y rest ih =>
    simp only [insertBy]
    split
    · exact (List.Perm.cons y ih).trans (List.Perm.swap x y rest)
    · exact List.Perm.refl _

/-- Sorting loses nothing and makes nothing. -/
theorem sortBy_perm {α : Type} (lt : α → α → Bool) (l : List α) : (sortBy lt l).Perm l := by
  induction l with
  | nil => exact List.Perm.refl _
  | cons x rest ih => exact (insertBy_perm lt x _).trans (List.Perm.cons x ih)

theorem mem_sortBy {α : Type} {lt : α → α → Bool} {l : List α} {x : α} : x ∈ sortBy lt l ↔ x ∈ l :=
  (sortBy_perm lt l).mem_iff

/-- The order of the admission numbers is total. -/
theorem admittedBefore_total (next : Count) (a b : Window) :
    admittedBefore next a b = false → behind next a.admissionNo ≤ behind next b.admissionNo := by
  simp [admittedBefore]

/-! ## Arbitration -/

theorem maxSeverity_le {l : List HeldWindow} {n : Nat} : maxSeverity l ≤ n ↔ ∀ h ∈ l, h.win.severity ≤ n := by
  induction l with
  | nil => simp [maxSeverity]
  | cons h rest ih =>
    have hstep : maxSeverity (h :: rest) = max h.win.severity (maxSeverity rest) := rfl
    rw [hstep, max_le_iff, ih]
    simp

/-- The first window of a severity, where the list has one. -/
theorem takeSeverity_first {sev : Nat} {before after : List HeldWindow} {h : HeldWindow}
    (hbefore : ∀ x ∈ before, x.win.severity ≠ sev) (hh : h.win.severity = sev) :
    takeSeverity sev (before ++ h :: after) = some (h, before ++ after) := by
  induction before with
  | nil => simp [takeSeverity, hh]
  | cons x rest ih =>
    simp only [List.mem_cons, forall_eq_or_imp] at hbefore
    simp [takeSeverity, hbefore.1, ih hbefore.2]

/-- Moving the windows of an arbiter moves each window it holds, in its place. -/
theorem mapHeld_held (f : Window → Window) (a : Arbiter) : (mapHeld f a).held = a.held.map f := by
  simp [mapHeld, Arbiter.held, Option.toList]
  cases a.active <;> rfl

/-- A change made to every window of the store. -/
theorem mapWindows_windows (f : Window → Window) (s : State) : (mapWindows f s).windows = s.windows.map f := by
  simp [mapWindows, State.windows, Corner.all, mapHeld_held]

theorem windowPassed_iff (w : Window) : windowPassed w = true ↔ w.isPassed := by simp [windowPassed, Window.isPassed]

end Sys2Proof.Machine
end

