-- ==== Sys2Proof/Laws/PerInstr.lean ====
section
/-! SUPPORT. What is said of every command as syntax: how a request lies in its frame. -/

namespace Sys2Proof.Laws.FrameLayout

open Sys2Proof Sys2Proof.Machine

/-- A command is a request exactly where it has a header; its payload has the one length of its kind (R161, R181,
section 11.2). -/
def Statement (i : Instr) : Prop :=
  i.header = (requestParts i).map (fun parts => parts.2.1) ∧
  i.payloadLength = (requestParts i).map (fun parts => parts.1.payload) ∧
  ∀ parts, requestParts i = some parts → parts.2.2.length = parts.1.payload

theorem of_none {i : Instr} (hh : i.header = none) (hp : i.payloadLength = none) (hr : requestParts i = none) :
    Statement i := by
  refine ⟨by rw [hh, hr]; rfl, by rw [hp, hr]; rfl, fun parts h => ?_⟩
  rw [hr] at h
  cases h

theorem of_some {i : Instr} {k : RequestKind} {h : LinkHeader} {payload : List Byte}
    (hr : requestParts i = some (k, h, payload)) (hh : i.header = some h) (hp : i.payloadLength = some k.payload)
    (hl : payload.length = k.payload) : Statement i := by
  refine ⟨by rw [hh, hr]; rfl, by rw [hp, hr]; rfl, fun parts hparts => ?_⟩
  rw [hr] at hparts
  cases hparts
  exact hl

theorem powerOnReset : Statement .powerOnReset := of_none rfl rfl rfl
theorem brownoutReset : Statement .brownoutReset := of_none rfl rfl rfl
theorem startLoadEnd : Statement .startLoadEnd := of_none rfl rfl rfl
theorem controlPeriod (corner : Corner) (sample : BitVec 12) : Statement (.controlPeriod corner sample) :=
  of_none rfl rfl rfl
theorem sensorFaultSet (corner : Corner) (sample : BitVec 12) : Statement (.sensorFaultSet corner sample) :=
  of_none rfl rfl rfl
theorem sensorFaultClear (corner : Corner) (sample : BitVec 12) : Statement (.sensorFaultClear corner sample) :=
  of_none rfl rfl rfl
theorem bodyAgeTick : Statement .bodyAgeTick := of_none rfl rfl rfl
theorem travelStep : Statement .travelStep := of_none rfl rfl rfl
theorem eventAgeExpiry (tag : Nat) : Statement (.eventAgeExpiry tag) := of_none rfl rfl rfl
theorem orphanAgeExpiry (corner : Corner) : Statement (.orphanAgeExpiry corner) := of_none rfl rfl rfl
theorem drivePeriod (corner : Corner) (current : Nat) : Statement (.drivePeriod corner current) :=
  of_none rfl rfl rfl
theorem openCoilDetected (corner : Corner) (current : Nat) : Statement (.openCoilDetected corner current) :=
  of_none rfl rfl rfl
theorem retryTimerExpiry (corner : Corner) (current : Nat) : Statement (.retryTimerExpiry corner current) :=
  of_none rfl rfl rfl
theorem cleanRunExpiry (corner : Corner) (current : Nat) : Statement (.cleanRunExpiry corner current) :=
  of_none rfl rfl rfl
theorem regLowSet (corner : Corner) (current : Nat) : Statement (.regLowSet corner current) := of_none rfl rfl rfl
theorem regLowClear (corner : Corner) (current : Nat) : Statement (.regLowClear corner current) :=
  of_none rfl rfl rfl
theorem drvenFall : Statement .drvenFall := of_none rfl rfl rfl
theorem drvenRise : Statement .drvenRise := of_none rfl rfl rfl
theorem stoppingTimerExpiry : Statement .stoppingTimerExpiry := of_none rfl rfl rfl
theorem silenceTimerTick : Statement .silenceTimerTick := of_none rfl rfl rfl
theorem linkSilenceExpiry : Statement .linkSilenceExpiry := of_none rfl rfl rfl
theorem storeEnd (badCells : List (Nat × Byte)) : Statement (.storeEnd badCells) := of_none rfl rfl rfl
theorem invalidFrame (f : SelectPeriod) : Statement (.invalidFrame f) := of_none rfl rfl rfl
theorem nop (hdr : LinkHeader) : Statement (.nop hdr) := of_some rfl rfl rfl rfl
theorem status (hdr : LinkHeader) : Statement (.status hdr) := of_some rfl rfl rfl rfl
theorem ident (hdr : LinkHeader) : Statement (.ident hdr) := of_some rfl rfl rfl rfl
theorem bodyState (hdr : LinkHeader) (body : BodyFields) : Statement (.bodyState hdr body) :=
  of_some rfl rfl rfl rfl
theorem previewEvent (hdr : LinkHeader) (event : EventFields) : Statement (.previewEvent hdr event) :=
  of_some rfl rfl rfl rfl
theorem cancelEvent (hdr : LinkHeader) (tag : Byte) : Statement (.cancelEvent hdr tag) := of_some rfl rfl rfl rfl
theorem flushPreview (hdr : LinkHeader) : Statement (.flushPreview hdr) := of_some rfl rfl rfl rfl
theorem collect (hdr : LinkHeader) (count : Byte) : Statement (.collect hdr count) := of_some rfl rfl rfl rfl
theorem cornerOptions (hdr : LinkHeader) (options : PerCorner OptionFields) : Statement (.cornerOptions hdr options) :=
  of_some rfl rfl rfl rfl
theorem readCorner (hdr : LinkHeader) (corner : Byte) : Statement (.readCorner hdr corner) :=
  of_some rfl rfl rfl rfl
theorem clearFaults (hdr : LinkHeader) (corners : Byte) : Statement (.clearFaults hdr corners) :=
  of_some rfl rfl rfl rfl
theorem goActive (hdr : LinkHeader) : Statement (.goActive hdr) := of_some rfl rfl rfl rfl
theorem goStandby (hdr : LinkHeader) : Statement (.goStandby hdr) := of_some rfl rfl rfl rfl
theorem enterLimp (hdr : LinkHeader) : Statement (.enterLimp hdr) := of_some rfl rfl rfl rfl
theorem resume (hdr : LinkHeader) : Statement (.resume hdr) := of_some rfl rfl rfl rfl
theorem calSegment (hdr : LinkHeader) (index : Byte) (flags : Byte) (data : Vector Byte 32) :
    Statement (.calSegment hdr index flags data) :=
  of_some rfl rfl rfl (by simp [RequestKind.payload])
theorem calRead (hdr : LinkHeader) (index : Byte) : Statement (.calRead hdr index) := of_some rfl rfl rfl rfl
theorem calStore (hdr : LinkHeader) : Statement (.calStore hdr) := of_some rfl rfl rfl rfl
theorem restart (hdr : LinkHeader) : Statement (.restart hdr) := of_some rfl rfl rfl rfl
theorem vddRecovery : Statement .vddRecovery := of_none rfl rfl rfl

end Sys2Proof.Laws.FrameLayout
end

