-- ==== Sys2Proof/Laws/Travel.lean ====
section
/-! SUPPORT. What the stages of a travel step can do, each said once. -/

namespace Sys2Proof.Machine

open Sys2Proof

/-! ## Accounts -/

/-- How many retirements count for an event at an axle with an outcome. -/
theorem countsWith_nil (tag : Nat) (front : Bool) (k : OutcomeCounts) : countsWith [] tag front k = k := by
  simp [countsWith]

/-- An event with the retirements of its windows counted. -/
def countedEvent (rs : List Retirement) (e : Event) : Event :=
  { e with front := countsWith rs e.tag true e.front, rear := countsWith rs e.tag false e.rear }

theorem accountRetirement_events (sch : Scheduler) (r : Retirement) :
    (accountRetirement sch r).events = sch.events.map (countedEvent [r]) := by
  have hmap : ∀ f g : Event → Event, (∀ e, f e = g e) → sch.events.map f = sch.events.map g :=
    fun f g h => List.map_congr_left fun e _ => h e
  cases hp : r.win.parent with
  | orphan =>
    simp only [accountRetirement, hp]
    rw [← List.map_id sch.events]
    simp only [List.map_map]
    refine hmap _ _ fun e => ?_
    simp [countedEvent, countsWith, ofEvent, hp]
  | event tag =>
    simp only [accountRetirement, hp]
    refine hmap _ _ fun e => ?_
    by_cases ht : e.tag = tag
    · subst ht
      cases hf : r.win.corner.isFront <;> cases ho : r.outcome <;>
        simp [countedEvent, countsWith, ofEvent, hp, hf, ho, Event.count, OutcomeCounts.add]
    · have : ¬ tag = e.tag := fun h => ht h.symm
      simp [countedEvent, countsWith, ofEvent, hp, ht, this]

theorem countedEvent_append (rs qs : List Retirement) (e : Event) :
    countedEvent qs (countedEvent rs e) = countedEvent (rs ++ qs) e := by
  simp [countedEvent, countsWith, List.filter_append, Nat.add_assoc]

/-- An account of retirements: each raises the matching count of its event at its axle by one, or lowers the orphan count
(R57). -/
theorem accountAll_eq (rs : List Retirement) (sch : Scheduler) :
    accountAll rs sch = { sch with
      events := sch.events.map (countedEvent rs)
      orphanCount := sch.orphanCount - (rs.filter fun r => isOrphan r.win).length } := by
  induction rs generalizing sch with
  | nil =>
    have hid : countedEvent [] = id := funext fun e => by simp [countedEvent, countsWith_nil]
    simp [accountAll, hid]
  | cons r rest ih =>
    have hstep : accountAll (r :: rest) sch = accountAll rest (accountRetirement sch r) := rfl
    have hrest : (accountRetirement sch r) = { sch with
        events := sch.events.map (countedEvent [r])
        orphanCount := sch.orphanCount - ([r].filter fun r => isOrphan r.win).length } := by
      rw [← accountRetirement_events]
      simp only [accountRetirement, isOrphan, List.filter_cons]
      cases r.win.parent <;> simp
    rw [hstep, ih, hrest]
    simp only [List.map_map, Scheduler.mk.injEq, true_and, and_true]
    refine ⟨List.map_congr_left fun e _ => ?_, ?_⟩
    · simp only [Function.comp, countedEvent_append, List.singleton_append]
    · simp only [List.filter_cons]
      split
      · simp
        omega
      · simp

/-! ## Removals that leave their selection to stage 4 -/

/-- Two removals one after the other are one removal of both kinds. -/
theorem removeWindows_twice (p q : Window → Bool) (a : Arbiter) :
    removeWindows q true (removeWindows p true a) = removeWindows (fun w => p w || q w) true a := by
  obtain ⟨act, st, wt, oc, sd, ms, r1, r2⟩ := a
  cases act with
  | none => simp [removeWindows, List.filter_filter, Bool.and_comm]
  | some x =>
    cases hp : p x.win <;> cases hq : q x.win <;>
      simp [removeWindows, hp, hq, List.filter_filter, Bool.and_comm]

theorem removeWindows_held (p : Window → Bool) (a : Arbiter) :
    (removeWindows p true a).held = a.held.filter fun w => !p w := by
  obtain ⟨act, st, wt, oc, sd, ms, r1, r2⟩ := a
  cases act with
  | none => simp [removeWindows, Arbiter.held, List.filter_map, Function.comp_def]
  | some x =>
    cases hp : p x.win <;> simp [removeWindows, Arbiter.held, hp, List.filter_map, Function.comp_def]

/-- Removing nothing changes nothing. -/
theorem removeWindows_none (a : Arbiter) : removeWindows (fun _ => false) true a = a := by
  obtain ⟨act, st, wt, oc, sd, ms, r1, r2⟩ := a
  cases act <;> simp [removeWindows]

/-! ## Retiring -/

/-- Expiry of windows: they leave the store, orphans lower the orphan count, no event's counts change (R61, R62). -/
theorem retireWhere_expired (p : Window → Bool) (s : State) :
    retireWhere p .expired true s = { s with
      sched := { s.sched with
        pendingWindows := s.sched.pendingWindows.filter fun w => !p w
        orphanCount := s.sched.orphanCount - (s.windows.filter fun w => p w && isOrphan w).length }
      arb := s.arb.map (removeWindows p true) } := by
  have hid : countedEvent ((s.windows.filter p).map fun w => { win := w, outcome := .expired }) = id := by
    funext e
    have hnone : ∀ (ws : List Window) (front : Bool) (k : OutcomeCounts),
        countsWith (ws.map fun w => { win := w, outcome := .expired }) e.tag front k = k := by
      intro ws front k
      have h0 : (WindowOutcome.expired == WindowOutcome.served) = false := rfl
      have h1 : (WindowOutcome.expired == WindowOutcome.overridden) = false := rfl
      have h2 : (WindowOutcome.expired == WindowOutcome.skipped) = false := rfl
      simp [countsWith, List.filter_map, Function.comp_def, h0, h1, h2]
    simp [countedEvent, hnone]
  simp only [retireWhere, accountAll_eq, hid, List.map_id, List.filter_map, Function.comp_def, List.length_map,
    List.filter_filter, Bool.and_comm]

/-- The windows that a deferred removal leaves in the store. -/
theorem windows_removed (p : Window → Bool) (s : State) (sch : Scheduler)
    (h : sch.pendingWindows = s.sched.pendingWindows.filter fun w => !p w) :
    ({ s with sched := sch, arb := s.arb.map (removeWindows p true) } : State).windows =
      s.windows.filter fun w => !p w := by
  simp [State.windows, h, Corner.all, removeWindows_held, List.filter_append]

/-- The window belongs to one of the events. -/
def ofSome (es : List Event) (w : Window) : Bool := es.any fun e => ofEvent e.tag w

/-- The expiry of events one after the other (R61, R98): their windows leave the store, they leave the table, and their
records join the list in their order. -/
theorem expireEvents_eq (es : List Event) (s : State) :
    es.foldl expireEvent s = { s with
      sched := { s.sched with
        events := s.sched.events.filter fun e => es.all fun x => e.tag != x.tag
        pendingWindows := s.sched.pendingWindows.filter fun w => !ofSome es w
        completions := s.sched.completions ++ es.map (recordOf .expired s.sched.msCount) }
      arb := s.arb.map (removeWindows (ofSome es) true) } := by
  induction es generalizing s with
  | nil =>
    have hid : removeWindows (ofSome []) true = id := funext removeWindows_none
    have hmap : s.arb.map (id : Arbiter → Arbiter) = s.arb := rfl
    simp [hid, hmap, ofSome]
  | cons e rest ih =>
    have horphan : (s.windows.filter fun w => ofEvent e.tag w && isOrphan w) = [] := by
      refine List.filter_eq_nil_iff.2 fun w _ => ?_
      cases hp : w.parent <;> simp [ofEvent, isOrphan, hp]
    have htwice : (s.arb.map (removeWindows (ofEvent e.tag) true)).map (removeWindows (ofSome rest) true) =
        s.arb.map (removeWindows (ofSome (e :: rest)) true) := by
      simp only [PerCorner.map, removeWindows_twice]
      rfl
    rw [List.foldl_cons, ih]
    simp only [expireEvent, retireWhere_expired, horphan, post, State.setSched, htwice, List.filter_filter]
    simp [ofSome, Bool.and_comm]

/-! ## The stages before the opens -/

theorem stepDistance_eq (s : State) : stepDistance s = (stepMm s, carryAfter s) := by
  simp only [stepDistance, stepMm, carryAfter]
  split <;> rfl

/-- The events that end by age at the coming step. -/
def expiring (s : State) : List Event := s.sched.events.filter fun e => decide (expiresNow s e.admissionMs)

/-- Where a window stands decides neither its event nor its age. -/
theorem endsByAge_moved (s : State) (w : Window) : endsByAge s (movedWindow s w) = endsByAge s w := rfl

theorem endsByAge_eq (s : State) (w : Window) :
    endsByAge s w = (ofSome (expiring s) w || (isOrphan w && decide (expiresNow s w.admissionMs))) := by
  simp [endsByAge, ofSome, expiring, List.any_filter]

/-- Stages 1 and 2 (R51, R52, R60 to R62). -/
theorem expiryStage_moveStage (s : State) :
    expiryStage (moveStage s) = { s with
      sched :=
        { events := s.sched.events.filter fun e => (expiring s).all fun x => e.tag != x.tag
          pendingWindows := (s.sched.pendingWindows.map (movedWindow s)).filter fun w => !endsByAge s w
          completions := s.sched.completions ++ (expiring s).map (recordOf .expired (s.sched.msCount + 1))
          orphanCount :=
            s.sched.orphanCount
              - (s.windows.filter fun w => isOrphan w && decide (expiresNow s w.admissionMs)).length
          carry := carryAfter s
          msCount := s.sched.msCount + 1
          admissionNo := s.sched.admissionNo }
      arb := s.arb.map fun a => removeWindows (endsByAge s) true (mapHeld (movedWindow s) a) } := by
  have hmove : moveStage s = { s with
      sched := { s.sched with
        pendingWindows := s.sched.pendingWindows.map (movedWindow s), carry := carryAfter s }
      arb := s.arb.map (mapHeld (movedWindow s)) } := by
    simp only [moveStage, mapWindows, State.setSched, stepDistance_eq]
    rfl
  have hwindows : (moveStage s).windows = s.windows.map (movedWindow s) := by
    have := mapWindows_windows (movedWindow s) s
    rw [← this, hmove]
    rfl
  have hexpiring : ((countMs (moveStage s)).sched.events.filter
      (eventDue (countMs (moveStage s)).cal.working (countMs (moveStage s)).sched.msCount)) = expiring s := by
    simp only [hmove]
    exact List.filter_congr fun e _ => rfl
  have hdue : orphanDue (countMs (moveStage s)).cal.working (countMs (moveStage s)).sched.msCount =
      fun w => isOrphan w && decide (expiresNow s w.admissionMs) := by
    rw [hmove]
    rfl
  have horphan : ∀ w, isOrphan w = true → ofSome (expiring s) w = false := by
    intro w hw
    cases hp : w.parent <;> simp_all [isOrphan, ofSome, ofEvent]
  have hends : endsByAge s = fun w => ofSome (expiring s) w || (isOrphan w && decide (expiresNow s w.admissionMs)) :=
    funext (endsByAge_eq s)
  simp only [expiryStage, hexpiring, expireEvents_eq, retireWhere_expired, hdue]
  rw [windows_removed (ofSome (expiring s)) (countMs (moveStage s)) _ rfl]
  have hcount : ((countMs (moveStage s)).windows.filter fun w => !ofSome (expiring s) w).filter
      (fun w => (isOrphan w && decide (expiresNow s w.admissionMs)) && isOrphan w) =
      (s.windows.filter fun w => isOrphan w && decide (expiresNow s w.admissionMs)).map (movedWindow s) := by
    have hw : (countMs (moveStage s)).windows = s.windows.map (movedWindow s) := hwindows
    rw [hw, List.filter_filter, List.filter_map]
    congr 1
    refine List.filter_congr fun w _ => ?_
    have hsame : isOrphan (movedWindow s w) = isOrphan w := rfl
    have hadm : (movedWindow s w).admissionMs = w.admissionMs := rfl
    simp only [Function.comp, hsame, hadm]
    cases ho : isOrphan w
    · simp
    · have := horphan (movedWindow s w) ho
      simp [this]
  rw [hcount, List.length_map, hmove]
  simp only [PerCorner.map, removeWindows_twice, List.filter_filter, hends]
  simp only [countMs, State.setSched, Bool.not_or, Bool.and_comm]

/-! ## The order of the opens -/

/-- A batch of opens put in its order stands in that order (R56). -/
theorem sortBy_opensBefore (next : Count) (l : List Window) : (sortBy (nearer next) l).Pairwise (opensBefore next) := by
  have htot : ∀ a b, nearer next a b = false → opensBefore next b a := by
    intro a b h
    simp only [nearer, admittedBefore, behind, Bool.or_eq_false_iff, Bool.and_eq_false_imp, decide_eq_false_iff_not, beq_iff_eq, not_lt] at h
    unfold opensBefore
    obtain ⟨h1, h2⟩ := h
    rcases Int.lt_or_eq_of_le h1 with h | h
    · exact .inl h
    · exact .inr ⟨h, not_lt.1 (of_decide_eq_false (h2 h.symm))⟩
  have hlt : ∀ a b, nearer next a b = true → opensBefore next a b := by
    intro a b h
    simp only [nearer, admittedBefore, behind, Bool.or_eq_true, Bool.and_eq_true, decide_eq_true_eq, beq_iff_eq] at h
    unfold opensBefore
    rcases h with h | h
    · exact .inl h
    · exact .inr ⟨h.1, (of_decide_eq_true h.2).le⟩
  have htrans : ∀ a b c, opensBefore next a b → opensBefore next b c → opensBefore next a c := by
    intro a b c
    unfold opensBefore
    omega
  induction l with
  | nil => exact List.Pairwise.nil
  | cons x rest ih =>
    simp only [sortBy]
    generalize sortBy (nearer next) rest = m at ih
    clear rest
    induction m with
    | nil => simp [insertBy]
    | cons y tl ihm =>
      simp only [insertBy]
      rw [List.pairwise_cons] at ih
      split
      · rename_i h
        rw [List.pairwise_cons]
        refine ⟨fun z hz => ?_, ihm ih.2⟩
        rcases List.mem_cons.1 ((insertBy_perm _ x tl).mem_iff.1 hz) with rfl | hz
        · exact hlt _ _ h
        · exact ih.1 z hz
      · rename_i h
        rw [List.pairwise_cons]
        have hx := htot y x (by simpa using h)
        refine ⟨fun z hz => ?_, List.pairwise_cons.2 ih⟩
        rcases List.mem_cons.1 hz with rfl | hz
        · exact hx
        · exact htrans _ _ _ hx (ih.1 z hz)

end Sys2Proof.Machine
end

