-- ==== Sys2Proof/Tests/Slice0.lean ====
section
/-! SUPPORT. Tests of one step each, and the smoke test of WellFormed. Expected values come from the worked examples and
the tables of the spec, named in each comment, and CRCs from a calculation outside the model. -/

namespace Sys2Proof.Tests

open Sys2Proof Sys2Proof.Machine

-- One theorem after the other: so many kernel evaluations at once ask for more threads than the memory limit allows.
set_option Elab.async false

/-! ## The part the examples run on -/

/-- A memory of bytes that follow one another from an offset on. -/
def listed : Nat → List Nat → Memory
  | _, [] => []
  | a, b :: rest => if b = 0 then listed (a + 1) rest else (a, BitVec.ofNat 8 b) :: listed (a + 1) rest

/-- Two-byte fields as bytes, most significant first. -/
def pairs (l : List Nat) : List Nat := l.flatMap fun n => [n / 256, n % 256]

/-- The constants of the worked examples (sections 1.4, 2.2, 2.5, 2.7, 3.8, 6.7, 7.8, 9.9) at their offsets, with a
second band edge, a last map point and a CRC; the rear rows that no example gives are the front ones. -/
def imageOf (edge top crc : Nat) : Memory :=
  [(0, pairs [0x0107, 3000, 800, 760, 1400, 1600, 2048, 2048, 2048, 2048, 820, 820, 820, 820]), (28, [8, 16]),
    (30, pairs [60, 100, edge, 800, 600, 450, 2000]), (44, [2, 20]), (46, pairs [50, 50, 50]),
    (52, pairs [200, 1800, 1500, 600, 30, 40, 1]), (66, pairs [300, 3000, 2500, 1000, 50, 80, 1]),
    (80, pairs [500, 3600, 3200, 1400, 80, 120, 1]), (94, pairs [800, 4000, 3600, 2000, 120, 160, 0]),
    (108, pairs [100, 180, 280, 400, 550, 720, 920, 1150, 1420, 1730, 2080, 2480]),
    (132, pairs [120, 220, 330, 460, 620, 810, 1030, 1290, 1600, 1950, 2350, 2800]),
    (156, pairs [150, 260, 380, 520, 700, 900, 1150, 1450, 1800, 2200, 2650, 3100]),
    (180, pairs [200, 320, 460, 620, 820, 1050, 1320, 1640, 2020, 2450, 2940, 3500]),
    (204, pairs [100, 180, 280, 400, 550, 720, 920, 1150, 1420, 1730, 2080, 2480]),
    (228, pairs [140, 240, 350, 480, 640, 830, 1050, 1310, 1620, 1980, 2390, 2850]),
    (252, pairs [150, 260, 380, 520, 700, 900, 1150, 1450, 1800, 2200, 2650, 3100]),
    (276, pairs [200, 320, 460, 620, 820, 1050, 1320, 1640, 2020, 2450, 2940, top]), (318, pairs [crc])].flatMap
      fun part => listed part.1 part.2

def image : Memory := imageOf 300 3500 0x97EE

/-- The part in a part state with that image VALID and DRVEN high. -/
def partIn (p : PartState) : State :=
  { State.reset with
    sup := { Supervisor.reset .power with
      part := p, source := PerCorner.replicate (sourceOf p),
      stoppingTimer := if p = .stopping then some 0 else none,
      limpFirst := if p = .limp then some .requested else none,
      limpSet := { LimpReasons.empty with requested := decide (p = .limp) } }
    cal := { CalStore.reset image true with working := image, imageState := .valid }
    drven := true }

/-- What is seen of the next state a command answers. -/
def seen {α : Type} (i : Instr) (s : State) (f : State → α) : Option α :=
  match exec i s with
  | .next t => some (f t)
  | .fault _ => none
  | .refused _ => none

def payloadOf (t : State) : List Byte := t.link.reply.payload

def hdr : LinkHeader := { seq := 1, mode := 1, pad := 0 }

/-- The record of section 1.4: w 120, p 200, q 100, speed 9500, unknown direction, floors 900, 900, 4500, 600. -/
def record : BodyFields :=
  { w := 120, p := 200, q := 100, speed := 9500, direction := 7, floors := ⟨900, 900, 4500, 600⟩ }

/-- The motion input of the law case (section 2.5), fresh, at a speed in cm/s. -/
def motion (speed : Nat) : Motion :=
  { w := 120, p := 200, q := 100, speed := speed, direction := .forward, floors := ⟨900, 0, 0, 0⟩, age := 0 }

/-- A part in ACTIVE that moves at a speed with a carry. -/
def moving (speed carry : Nat) : State :=
  ((partIn .active).setMotion (motion speed)).setSched { Scheduler.reset with carry := carry }

/-- A stage that regulates. -/
def regulating : Drive := { Drive.reset with state := .regulating, latch := 600, target := 600 }

def withDrive (p : PartState) (d : Drive) : State := (partIn p).setDrive .fl d

/-- The window of a corner of event 5 of section 3.8, at a position. -/
def window (c : Corner) (parent : Parent) (pos : Int) : Window :=
  { corner := c, parent := parent, severity := 4, lead := 300, length := 400, trail := 600, cSoft := 400, cFirm := 2400,
    pos := pos, admissionMs := 0, admissionNo := 0 }

def event (tag : Nat) (report : ReportPoint) (served : Nat) : Event :=
  { tag := tag, track := .left, severity := 4, report := report, admissionMs := 0, admissionNo := 0,
    front := { served := served, overridden := 0, skipped := 0 },
    rear := { served := 0, overridden := 0, skipped := 0 } }

/-- A record of the completion list. -/
def done (tag : Nat) : Completion :=
  { tag := tag, outcome := .applied, report := .late, served := 2, overridden := 0, skipped := 0, age := 950 }

/-- Event 5 of section 3.8 when its front window has been served: its rear window stands at RL, ACTIVE. -/
def halfServed (report : ReportPoint) (pos : Int) : State :=
  ((moving 2000 0).setSched { Scheduler.reset with events := [event 5 report 1], msCount := 949 }).setArb .rl
    { Arbiter.reset with active := some ⟨window .rl (.event 5) pos, 0⟩, openCount := 1 }

/-! ## WellFormed: one ill-formed term for each check -/

theorem test_wf_padding_past_48_bytes : (Instr.nop { seq := 0, mode := 0, pad := 44 }).wellFormed = false := by decide

theorem test_wf_tag_24 : (Instr.eventAgeExpiry 24).wellFormed = false := by decide

theorem test_wf_front_orphan : (Instr.orphanAgeExpiry .fl).wellFormed = false := by decide

theorem test_wf_cell_outside_the_image : (Instr.storeEnd [(320, 1)]).wellFormed = false := by decide

theorem test_wf_no_clock_edge : (Instr.invalidFrame (.ended [])).wellFormed = false := by decide

theorem test_wf_accepts :
    (Instr.nop { seq := 0, mode := 0, pad := 43 }).wellFormed = true ∧ (Instr.eventAgeExpiry 23).wellFormed = true := by
  decide

/-! ## Frames written out from sections 9.3 and 11.3; the CRCs are calculated outside the model -/

theorem test_decode_status :
    decodeRequest { bytes := [0x02, 0x11, 0x00, 0x92, 0xBE], extraBits := 0 } = some (.status hdr) := by decide +kernel

theorem test_decode_body_state :
    decodeRequest
      { bytes := [0x04, 0x81, 0x11, 0x00, 0x78, 0x00, 0xC8, 0xFF, 0x9C, 0x25, 0x1C, 0x07, 0x03, 0x84, 0x03, 0x84, 0x11,
                  0x94, 0x02, 0x58, 0xCD, 0x38], extraBits := 0 } =
      some (.bodyState { seq := 8, mode := 1, pad := 0 } { record with q := BitVec.ofInt 16 (-100) }) := by
  decide +kernel

theorem test_decode_preview_event :
    decodeRequest
      { bytes := [0x05, 0x31, 0x10, 0x09, 0x03, 0x03, 0x01, 0xFE, 0x70, 0x01, 0x2C, 0x00, 0x64, 0x00, 0x64, 0x01, 0x90,
                  0x09, 0x60, 0x9C, 0x3C], extraBits := 0 } =
      some (.previewEvent { seq := 3, mode := 1, pad := 0 }
        { tag := 9, track := 3, severity := 3, report := 1, distance := BitVec.ofInt 16 (-400), length := 300,
          lead := 100, trail := 100, cSoft := 400, cFirm := 2400 }) := by
  decide +kernel

theorem test_decode_collect_with_padding :
    decodeRequest { bytes := [0x08, 0x41, 0x01, 0x04, 0x58, 0x2B, 0xFF], extraBits := 0 } =
      some (.collect { seq := 4, mode := 1, pad := 1 } 4) := by decide +kernel

theorem test_decode_corner_options :
    decodeRequest
      { bytes := [0x09, 0x51, 0x08, 0x01, 0x03, 0x02, 0x03, 0x08, 0x01, 0x01, 0x00, 0x75, 0xFF], extraBits := 0 } =
      some (.cornerOptions { seq := 5, mode := 1, pad := 0 } ⟨⟨1, 3⟩, ⟨2, 3⟩, ⟨8, 1⟩, ⟨1, 0⟩⟩) := by
  decide +kernel

theorem test_decode_go_active :
    decodeRequest { bytes := [0x0C, 0x61, 0x00, 0x81, 0xE6], extraBits := 0 } =
      some (.goActive { seq := 6, mode := 1, pad := 0 }) := by decide +kernel

theorem test_decode_cal_segment :
    decodeRequest
      { bytes := [0x10, 0x71, 0x22, 0x00, 0x01] ++ List.replicate 32 0x00 ++ [0x71, 0xF0], extraBits := 0 } =
      some (.calSegment { seq := 7, mode := 1, pad := 0 } 0 1 (Vector.replicate 32 0)) := by decide +kernel

/-- R163: a corrupted payload bit. -/
theorem test_decode_refuses_corruption :
    decodeRequest { bytes := [0x08, 0x41, 0x01, 0x05, 0x58, 0x2B], extraBits := 0 } = none := by decide +kernel

theorem test_table_words_spell_nothing : decodeTableWord 8 0x02 = none := rfl

/-! ## Power, START load, calibration store -/

/-- R141, R169. -/
theorem test_power_on_reset :
    seen .powerOnReset (partIn .limp) (fun t => (t.sup.part, payloadOf t, t.cal.nvMark)) =
      some (.start, [0x01], true) := by decide +kernel

/-- R141: held, then released with cause BROWNOUT. -/
theorem test_brownout_reset :
    seen .brownoutReset (partIn .active) (fun t => (t.held, t.sup.part, seen .vddRecovery t payloadOf)) =
      some (true, .start, some [0x02]) := by decide +kernel

/-- R158: a reset while SSN is low: the three bits clocked are discarded, and no transaction is taken from the rest. -/
theorem test_reset_in_a_select_period :
    seen (.invalidFrame (.inProgress [false, true, true])) (partIn .active)
      (fun t => (t.link.receive, t.link.txPos, seen .powerOnReset t fun u => (u.link.receive, u.sdo.length))) =
      some (.selected [false, true, true], ⟨0, 3⟩, some (.barred, 3)) := by decide +kernel

theorem test_vdd_recovery :
    seen .vddRecovery { State.reset with held := true } (fun t => (t.held, t.sup.restartCause)) =
      some (false, .brownout) := by decide +kernel

/-- R171: without the completion mark the image is INVALID. -/
theorem test_start_load_end_without_mark :
    seen .startLoadEnd State.reset (fun t => (t.sup.part, t.cal.imageState)) = some (.standby, .invalid) := by
  decide +kernel

theorem bytes_append (m : Memory) (a n k : Nat) : m.bytes a (n + k) = m.bytes a n ++ m.bytes (a + n) k := by
  simp [Memory.bytes, List.range_add, Nat.add_assoc]

/-- Blocks of `n` bytes of an image from an offset on take the CRC register to each of the values in turn. -/
def registersRun (m : Memory) (n : Nat) : Nat → BitVec 16 → List (BitVec 16) → Bool
  | _, _, [] => true
  | a, reg, r :: rest => (m.bytes a n).foldl crcByte reg == r && registersRun m n (a + n) r rest

theorem registersRun_foldl {m : Memory} {n : Nat} (regs : List (BitVec 16)) {a : Nat} {reg : BitVec 16}
    (h : registersRun m n a reg regs = true) :
    (m.bytes a (n * regs.length)).foldl crcByte reg = regs.getLast?.getD reg := by
  induction regs generalizing a reg with
  | nil => rfl
  | cons r rest ih =>
    simp only [registersRun, Bool.and_eq_true, beq_iff_eq] at h
    rw [List.length_cons, Nat.mul_add, Nat.mul_one, Nat.add_comm, bytes_append, List.foldl_append, h.1, ih h.2]
    cases hl : rest.getLast? with
    | none => simp_all
    | some x => simp [List.getLast?_cons, hl]

/-- Section 9.3: the CRC registers after each of the segments 0 to 8 and after the rest, as calculated outside the model. -/
theorem crc_of_registers {m : Memory} (regs : List (BitVec 16)) (last : BitVec 16) (hlen : regs.length = 9)
    (h : registersRun m 32 0 0xFFFF regs = true)
    (hlast : registersRun m 30 288 (regs.getLast?.getD 0xFFFF) [last] = true) : crc16 (m.bytes 0 318) = last := by
  have hregs := registersRun_foldl regs h
  rw [hlen] at hregs
  show (m.bytes 0 (288 + 30)).foldl crcByte 0xFFFF = last
  rw [bytes_append, List.foldl_append, hregs]
  exact registersRun_foldl [last] hlast

theorem crcHolds_of_registers {m : Memory} (regs : List (BitVec 16)) (last : BitVec 16) (hlen : regs.length = 9)
    (h : registersRun m 32 0 0xFFFF regs = true)
    (hlast : registersRun m 30 288 (regs.getLast?.getD 0xFFFF) [last] = true) (hcrc : last.toNat = m.word 318) :
    crcHolds m = true := by
  simp only [crcHolds, calCrc, beq_iff_eq]
  rw [crc_of_registers regs last hlen h hlast, hcrc]

theorem image_crcHolds : crcHolds image = true :=
  crcHolds_of_registers [0xD8E9, 0xB0ED, 0x0902, 0x5DD5, 0x8321, 0x8F4E, 0x4784, 0xD66F, 0xFF9B] 0x97EE rfl
    (by decide +kernel) (by decide +kernel) (by decide +kernel)

/-- R174: the examples' image passes the checks of ranges, rows and edges. -/
theorem test_image_checks : rangeFailure image = none ∧ orderFailure image = none ∧ edgeFailure image = none := by
  decide +kernel

/-- Section 9.3 and R174: the examples' image passes validation. -/
theorem test_image_passes : validate image = .pass := by
  obtain ⟨hrange, horder, hedge⟩ := test_image_checks
  simp [validate, image_crcHolds, hrange, horder, hedge]

theorem edgeImage_crcHolds : crcHolds (imageOf 90 3500 0x2033) = true :=
  crcHolds_of_registers [0xD8E9, 0x650B, 0xE566, 0x7F3B, 0xF88D, 0x3256, 0xC85D, 0x8A9F, 0x9128] 0x2033 rfl
    (by decide +kernel) (by decide +kernel) (by decide +kernel)

/-- Section 10.6, a validation failure: E2 90 under E1 100 fails the check of the edges at byte 34, in segment 1. -/
theorem test_validation_edges : validate (imageOf 90 3500 0x2033) = .edges 1 := by
  have hrest : rangeFailure (imageOf 90 3500 0x2033) = none ∧ orderFailure (imageOf 90 3500 0x2033) = none ∧
      edgeFailure (imageOf 90 3500 0x2033) = some 34 := by decide +kernel
  simp [validate, edgeImage_crcHolds, hrest]

/-- Section 10.6, a download with a wrong segment: segment 5 where 4 was expected. -/
theorem test_cal_segment_out_of_sequence :
    seen (.calSegment hdr 5 0 (Vector.replicate 32 0))
      { partIn .standby with cal := { (partIn .standby).cal with
          imageState := .receiving, download := .receiving, expected := 4, accepted := 4 } }
      (fun t => (t.cal.download, t.cal.imageState, payloadOf t)) =
      some (.aborted, .invalid, [5, 1, 2, 4, 4, 0, 0, 0]) := by decide +kernel

/-- Section 10.6: segment 0 with START. -/
theorem test_cal_segment_start :
    seen (.calSegment hdr 0 1 (Vector.replicate 32 0xAA)) (partIn .standby)
      (fun t => (t.cal.expected, t.cal.accepted, t.cal.working.read 31, t.cal.working.read 32, payloadOf t)) =
      some (1, 1, 0xAA, image.read 32, [0, 0, 1, 1, 1, 2, 0, 0]) := by decide +kernel

/-- Section 10.6: CAL_READ 0 begins with the identifier H'0107. -/
theorem test_cal_read :
    seen (.calRead hdr 0) (partIn .standby) (fun t => (payloadOf t).take 6) = some [0, 1, 0x01, 0x07, 0x0B, 0xB8] := by
  decide +kernel

/-- Section 11.4: part code H'0D54, revision H'02, identifier, CRC, image state. -/
theorem test_ident :
    seen (.ident hdr) (partIn .limp) payloadOf = some [0x0D, 0x54, 0x02, 0x01, 0x07, 0x97, 0xEE, 1] := by decide +kernel

theorem test_cal_store :
    seen (.calStore hdr) (partIn .standby) (fun t => (t.cal.store, t.cal.nvMark, t.cal.lastResult)) =
      some (.busy, false, .none) := by decide +kernel

/-- A part whose store runs, over an old image that differs at offset 1. -/
def storingPart : State :=
  { partIn .standby with cal := { (partIn .standby).cal with
      working := [(0, 1), (1, 7)], nv := [(0, 1), (1, 6)], nvMark := false, store := .busy } }

/-- R177. -/
theorem test_store_end_ok :
    seen (.storeEnd []) storingPart (fun t => (t.cal.nv, t.cal.nvMark, t.cal.lastResult)) =
      some ([(0, 1), (1, 7)], true, .ok) := by decide +kernel

/-- R177: a byte differs. -/
theorem test_store_end_failed :
    seen (.storeEnd [(1, 6)]) storingPart (fun t => (t.cal.nv, t.cal.nvMark, t.cal.lastResult)) =
      some ([(0, 1), (1, 6)], false, .failed) := by decide +kernel

/-! ## Control periods -/

/-- The law case of section 2.5. -/
def lawCase (p : PartState) : State :=
  (((partIn p).setMotion (motion 2000)).setAcq .fl { Acquisition.reset with filter := some ⟨-3200, -3200⟩ }).setLaw .fl
    { LawResults.reset with cPrev := 820 }

/-- Section 2.5, stage by stage. -/
theorem test_control_period_law_case :
    seen (.controlPeriod .fl 1810) (lawCase .active)
      (fun t => (t.acq.fl.x, t.acq.fl.filter, t.acq.fl.vRel, t.law.fl, t.drive.fl.latch)) =
      some (-190, some ⟨-3120, -3200⟩, 500,
        { vBody := 140, stale := false, cLaw := 700, cA := 700, cB := 900, cC := 900, cOut := 870, cPrev := 870,
          band := 2, iTgt := 727 }, 727) := by decide +kernel

/-- Section 2.5, limit case: part state STOPPING. -/
theorem test_control_period_stopping :
    seen (.controlPeriod .fl 1810) (lawCase .stopping) (fun t => (t.law.fl.cB, t.law.fl.cC, t.law.fl.cOut)) =
      some (900, 0, 740) := by decide +kernel

/-- Section 1.4, period 5. -/
theorem test_sensor_fault_set :
    seen (.sensorFaultSet .fl 4095)
      ((partIn .standby).setAcq .fl
        { Acquisition.reset with bad := 2, x := -46, filter := some ⟨-672, -608⟩, vRel := -400 })
      (fun t => (t.acq.fl.bad, t.acq.fl.sensor, t.acq.fl.filter, t.acq.fl.vRel, t.sup.faultNew)) =
      some (3, true, some ⟨-672, -608⟩, 0, true) := by decide +kernel

/-- Section 1.4, period 25. -/
theorem test_sensor_fault_clear :
    seen (.sensorFaultClear .fl 1980)
      ((partIn .standby).setAcq .fl
        { Acquisition.reset with good := 19, sensor := true, x := -54, filter := some ⟨-672, -608⟩ })
      (fun t => (t.acq.fl.good, t.acq.fl.sensor, t.acq.fl.filter, t.acq.fl.vRel)) =
      some (20, false, some ⟨-864, -864⟩, 0) := by decide +kernel

/-- Section 6.7: bands at the edges, and the two readings of the front band 2 row. -/
theorem test_maps :
    ([0, 99, -100, 299, 300, 500, -850, 4000].map (selectBand 100 300 800) = [0, 0, 1, 1, 2, 2, 3, 3]) ∧
      inverseMap (mapPoint image .fl 2) 150 = 0 ∧ inverseMap (mapPoint image .fl 2) 870 = 727 ∧
      forwardMap (mapPoint image .fl 2) 600 = 700 := by decide +kernel

/-! ## Motion input and scheduler -/

/-- Section 1.4: speed, direction and floor RL clamped, the carry reported. -/
theorem test_body_state :
    seen (.bodyState hdr record) (moving 2000 20) (fun t => (t.motion.speed, t.motion.direction, t.motion.floors, payloadOf t)) =
      some (9000, .forward, ⟨900, 900, 4000, 600⟩, [0, 0x98, 0, 20]) := by decide +kernel

/-- R13. -/
theorem test_body_age_tick : seen .bodyAgeTick State.reset (fun t => t.motion.age) = some 255 := by decide +kernel

/-- Section 3.8, travel carry at 1234 cm/s, step 3. -/
theorem test_travel_step_carry : seen .travelStep (moving 1234 680) (fun t => t.sched.carry) = some 20 := by
  decide +kernel

/-- Section 3.8, step 735: FL opens at 300 mm and is ACTIVE. -/
theorem test_travel_step_opens :
    seen .travelStep
      ((moving 2000 0).setSched { Scheduler.reset with
        events := [event 5 .late 0], pendingWindows := [window .fl (.event 5) 320, window .rl (.event 5) 3320] })
      (fun t => (t.arb.fl.active, t.sched.pendingWindows)) =
      some (some ⟨window .fl (.event 5) 300, 0⟩, [window .rl (.event 5) 3300]) := by decide +kernel

/-- R61: at age 5000 ms the event posts EXPIRED. -/
theorem test_event_age_expiry :
    seen (.eventAgeExpiry 5) ((halfServed .late 100).setSched { (halfServed .late 100).sched with msCount := 4999 })
      (fun t => (t.sched.events.length, t.windows.length, t.sched.completions.map fun r => (r.outcome, r.age))) =
      some (0, 0, [(.expired, 5000)]) := by decide +kernel

/-- R62: an orphan of age 5000 ms is dropped and posts nothing. -/
theorem test_orphan_age_expiry :
    seen (.orphanAgeExpiry .rl)
      ((partIn .active).setSched { Scheduler.reset with
        pendingWindows := [window .rl .orphan 900], orphanCount := 1, msCount := 4999 })
      (fun t => (t.windows, t.sched.orphanCount, t.sched.completions)) = some ([], 0, []) := by decide +kernel

/-- Section 3.8, admission at the near edge. -/
theorem test_preview_event_near_edge :
    seen (.previewEvent hdr
        { tag := 9, track := 3, severity := 3, report := 1, distance := BitVec.ofInt 16 (-400), length := 300, lead := 100,
          trail := 100, cSoft := 400, cFirm := 2400 }) (moving 2000 0)
      (fun t => (payloadOf t, t.sched.pendingWindows.map fun w => (w.corner, w.pos))) =
      some ([9, 3, 0x0C, 2, 0], [(.rl, -1000), (.rr, -1000)]) := by decide +kernel

/-- Section 3.8: with length 30 cm and trail 50 cm the request is refused TOO_LATE. -/
theorem test_preview_event_too_late :
    seen (.previewEvent hdr
        { tag := 9, track := 3, severity := 3, report := 1, distance := BitVec.ofInt 16 (-400), length := 30, lead := 100,
          trail := 50, cSoft := 400, cFirm := 2400 }) (moving 2000 0) (fun t => (payloadOf t, t.sched.events)) =
      some ([0x09], []) := by decide +kernel

/-- Section 3.8, cancellation against the last retirement: request first. -/
theorem test_cancel_event :
    seen (.cancelEvent hdr 5) (halfServed .late (-980))
      (fun t => (payloadOf t, t.arb.rl.active.isSome, t.sched.completions.map fun r => (r.report, r.served, r.outcome))) =
      some ([5, 1], false, [(.late, 1, .cancelled)]) := by decide +kernel

/-- Section 3.8, the last step of event 5: served 2, age 950 ms, APPLIED. -/
theorem test_travel_step_posts :
    seen .travelStep (halfServed .late (-980))
      (fun t => (t.sched.events, t.sched.completions.map fun r => (r.report, r.served, r.outcome, r.age))) =
      some ([], [(.late, 2, .applied, 950)]) := by decide +kernel

/-- R69, R70. -/
theorem test_flush_preview :
    seen (.flushPreview hdr) (halfServed .late 100)
      (fun t => (payloadOf t, t.windows, t.sched.completions.map Completion.outcome)) = some ([1, 0], [], [.flushed]) := by
  decide +kernel

/-- Section 5.4: COLLECT count 7 with three records. -/
theorem test_collect :
    seen (.collect hdr 7) ((partIn .stopping).setSched { Scheduler.reset with completions := [done 1, done 3, done 2] })
      (fun t => ((payloadOf t).take 11, t.sched.completions)) = some ([3, 0, 1, 1, 1, 2, 2, 0, 0, 0x03, 0xB6], []) := by
  decide +kernel

/-- Section 4.9, a full stack at RR: W6 opens over W5, and W2 at the bottom is OVERRIDDEN. -/
theorem test_open_on_a_full_stack :
    (let w := fun (n : Nat) => ({ window .rr .orphan 100 with severity := n } : Window)
     let a : Arbiter := { Arbiter.reset with active := some ⟨w 5, 3⟩, stack := [⟨w 2, 0⟩, ⟨w 3, 1⟩, ⟨w 4, 2⟩], openCount := 4 }
     let r := openWindow true (w 6) a
     (r.1.active.map fun x => x.win.severity, r.1.stack.map fun x => x.win.severity, r.2)) =
      (some 6, [3, 4, 5], [⟨{ window .rr .orphan 100 with severity := 2 }, .overridden⟩]) := by decide +kernel

/-! ## Corners and drive stages -/

/-- R89: a minimum severity of 0 is taken as 1. -/
theorem test_corner_options :
    seen (.cornerOptions hdr ⟨⟨0, 3⟩, ⟨8, 1⟩, ⟨3, 2⟩, ⟨9, 0xFF⟩⟩) (partIn .standby) payloadOf =
      some [0x09, 1, 3, 8, 1, 3, 2, 8, 3] := by decide +kernel

/-- Section 2.5: READ_CORNER after the law case's period. -/
theorem test_read_corner :
    seen (.controlPeriod .fl 1810) (lawCase .active)
      (fun t => seen (.readCorner hdr 0) t fun u => (payloadOf u).take 14) =
      some (some [0, 0xFF, 0x42, 0x01, 0xF4, 0x00, 0x8C, 0x02, 0xBC, 0x03, 0x66, 2, 0x02, 0xD7]) := by decide +kernel

/-- Section 7.8: CLEAR_FAULTS naming FL in LIMP. -/
theorem test_clear_faults :
    seen (.clearFaults hdr 0x01) (withDrive .limp { Drive.reset with state := .faultShort })
      (fun t => (t.drive.fl.state, payloadOf t)) = some (.regulating, [1, 0, 0, 0, 0x01]) := by decide +kernel

/-- Section 2.5, drive period: 410 per-mille to 416. -/
theorem test_drive_period :
    seen (.drivePeriod .fl 700) (withDrive .active { regulating with latch := 727, duty := 410 })
      (fun t => (t.drive.fl.duty, t.drive.fl.iMeas)) = some (416, 700) := by decide +kernel

/-- Section 7.8: the third overcurrent latches FAULT_SHORT and the part goes to LIMP. -/
theorem test_drive_period_third_overcurrent :
    seen (.drivePeriod .fl 2140) (withDrive .active { regulating with retry := 2, duty := 300 })
      (fun t => (t.drive.fl.state, t.drive.fl.retry, t.sup.part, t.sup.limpFirst, t.sup.faultNew)) =
      some (.faultShort, 0, .limp, some .cornerFault, true) := by decide +kernel

/-- Section 7.8, an open coil: period 56. -/
theorem test_open_coil_detected :
    seen (.openCoilDetected .fl 0) (withDrive .active { regulating with duty := 950, lowRun := 49, openCount := 49 })
      (fun t => (t.drive.fl.state, t.drive.fl.duty, t.drive.fl.regLow, t.sup.part)) =
      some (.faultOpen, 0, false, .limp) := by decide +kernel

/-- Section 7.8, 50 ms: the wait count reaches 500. -/
theorem test_retry_timer_expiry :
    seen (.retryTimerExpiry .fl 0)
      (withDrive .active { Drive.reset with state := .overloadWait, retry := 1, wait := 499, latch := 600 })
      (fun t => (t.drive.fl.state, t.drive.fl.retry, t.drive.fl.cleanRun, t.drive.fl.duty)) =
      some (.regulating, 1, 1, 150) := by decide +kernel

/-- Section 7.8, the clean run returns the count to 0. -/
theorem test_clean_run_expiry :
    seen (.cleanRunExpiry .fl 600) (withDrive .active { regulating with retry := 1, cleanRun := 9999 })
      (fun t => (t.drive.fl.retry, t.drive.fl.cleanRun)) = some (0, 10000) := by decide +kernel

/-- Section 7.8, low supply: the hundredth LOW period. -/
theorem test_reg_low_set :
    seen (.regLowSet .fl 1380) (withDrive .active { regulating with latch := 1500, duty := 950, lowRun := 99 })
      (fun t => (t.drive.fl.regLow, t.sup.faultNew, t.sup.part)) = some (true, true, .active) := by decide +kernel

/-- Section 7.8: the hundredth IN period. -/
theorem test_reg_low_clear :
    seen (.regLowClear .fl 1190) (withDrive .active { regulating with latch := 1200, duty := 700, inRun := 99, regLow := true })
      (fun t => t.drive.fl.regLow) = some false := by decide +kernel

/-- Section 7.8, DRVEN falls during a retry wait. -/
theorem test_drven_fall :
    seen .drvenFall (withDrive .active { Drive.reset with state := .overloadWait, retry := 2, wait := 200 })
      (fun t => (t.drive.fl.state, t.drive.fl.retry, t.sup.part, t.sup.limpFirst)) =
      some (.off, 0, .limp, some .enaLow) := by decide +kernel

/-- Section 7.8: DRVEN rises in LIMP. -/
theorem test_drven_rise :
    seen .drvenRise { partIn .limp with drven := false } (fun t => (t.drive.fl.state, t.drive.fl.duty, t.sup.part)) =
      some (.regulating, 0, .limp) := by decide +kernel

/-! ## Supervisor and link -/

/-- R144. -/
theorem test_go_active :
    seen (.goActive hdr) (partIn .standby) (fun t => (t.sup.part, t.drive.rr.state, t.sup.source.rr)) =
      some (.active, .regulating, .law) := by decide +kernel

/-- Section 10.6: GO_ACTIVE with an INVALID image is refused CAL_INVALID. -/
theorem test_go_active_invalid_image :
    seen (.goActive hdr) { State.reset with sup := { State.reset.sup with part := .standby } } payloadOf =
      some [0x0D] := by decide +kernel

/-- R146. -/
theorem test_go_standby :
    seen (.goStandby hdr) (partIn .active) (fun t => (t.sup.part, t.sup.stoppingTimer)) = some (.stopping, some 0) := by
  decide +kernel

/-- R148, R149. -/
theorem test_enter_limp :
    seen (.enterLimp hdr) (partIn .active) (fun t => (t.sup.part, t.drive.fl.latch, t.drive.rl.latch)) =
      some (.limp, 600, 450) := by decide +kernel

/-- Section 2.7: RESUME with the stage REGULATING at 600 mA in band 2. -/
theorem test_resume :
    seen (.resume hdr) (((withDrive .limp regulating).setLaw .fl { LawResults.reset with band := 2 }))
      (fun t => (t.sup.part, t.law.fl.cOut, t.law.fl.cPrev)) = some (.active, 700, 700) := by decide +kernel

/-- Section 2.7: RESUME while DRVEN is low is refused NOT_READY. -/
theorem test_resume_not_ready :
    seen (.resume hdr) { partIn .limp with drven := false } (fun t => (t.sup.part, payloadOf t)) =
      some (.limp, [0x0B]) := by decide +kernel

/-- R147. -/
theorem test_stopping_timer_expiry :
    seen .stoppingTimerExpiry (partIn .stopping) (fun t => (t.sup.part, t.sup.stoppingTimer)) = some (.standby, none) := by
  decide +kernel

/-- Section 9.9, silence in ACTIVE: the expiry from 50 to 51. -/
theorem test_silence_timer_tick :
    seen .silenceTimerTick { partIn .active with link := { LinkPort.reset .power with silence := 50 } }
      (fun t => (t.link.silence, t.sup.part, t.sup.limpFirst)) = some (51, .limp, some .linkLost) := by decide +kernel

theorem test_link_silence_expiry :
    seen .linkSilenceExpiry { partIn .limp with link := { LinkPort.reset .power with silence := 50 } }
      (fun t => (t.link.silence, t.sup.limpSet.linkLost)) = some (51, true) := by decide +kernel

/-- Section 9.9, T1: RESTARTED, cause POWER, is clocked out; STATUS shows RESTARTED set and clears it. -/
theorem test_status :
    seen (.status { hdr with pad := 2 }) { partIn .standby with drven := false }
      (fun t => ((gatherBits t.sdo).bytes, (payloadOf t).take 6, t.atnLow)) =
      some ([0x04, 0x28, 0x01, 0x00, 0x01, 0x0D, 0x96], [1, 1, 0, 0, 2, 0], false) := by decide +kernel

/-- Section 9.9, T3: a corrupted payload bit is a CRC error with the sequence as received. -/
theorem test_invalid_frame :
    seen (.invalidFrame (.ended (bitsOf [0x08, 0x31, 0x01, 0x05, 0x58, 0x2B]))) (partIn .standby)
      (fun t => (t.link.reply.kind, t.link.reply.seq, payloadOf t, t.link.errorLatch, t.sup.linkErr)) =
      some (.linkError, 3, [5], true, true) := by decide +kernel

/-- R158, R159: twelve clocks are a SHORT_FRAME and show H'04 and the high half of H'28, most significant bit first. -/
theorem test_invalid_frame_of_twelve_bits :
    seen (.invalidFrame (.ended (List.replicate 12 true))) (partIn .standby) (fun t => (t.sdo, t.link.lastCause)) =
      some ([false, false, false, false, false, true, false, false, false, false, true, false], some .shortFrame) := by
  decide +kernel

/-- R165. -/
theorem test_nop :
    seen (.nop { hdr with pad := 43 }) (partIn .active)
      (fun t => (t.sdo.length, (t.sdo.drop 56).any id, t.link.reply.kind, payloadOf t)) =
      some (384, false, .done, []) := by decide +kernel

/-- R141, R169. -/
theorem test_restart :
    seen (.restart hdr) (partIn .active) (fun t => (t.sup.part, t.sup.restartCause, payloadOf t)) =
      some (.start, .requested, [0x03]) := by decide +kernel

/-! ## Witnesses: for each statement with hypotheses, states and operands that meet them, clause by clause, at the
boundary values of each clause -/

/-- A header that fills the transaction of a request of `n` payload bytes to 48 bytes. -/
def full (n : Nat) : LinkHeader := { hdr with pad := 43 - n }

def heldPart : State := { State.reset with held := true }

def stoppingAt (n : Nat) : State := (partIn .stopping).setSup { (partIn .stopping).sup with stoppingTimer := some n }

/-- STANDBY with an image that is not VALID. -/
def blank : State := State.reset.setSup { State.reset.sup with part := .standby }

theorem witness_StepRunsFrontCommand :
    ({ State.reset with pending := [.bodyAgeTick, .travelStep] } : State).pending = .bodyAgeTick :: [.travelStep] := rfl

theorem witness_StoppingTimerEndsStopping :
    (∃ s : State, s.pending = [] ∧ s.sup.stoppingTimer = none) ∧ (∃ s : State, s.pending = [] ∧ s.held = true) ∧
      (∃ s : State, s.pending = [] ∧ s.sup.stoppingTimer = some 0 ∧ s.held = false ∧ 0 + 1 < 500) ∧
      (∃ s : State, s.pending = [] ∧ s.sup.stoppingTimer = some 498 ∧ s.held = false ∧ 498 + 1 < 500) ∧
      (∃ s : State, s.pending = [] ∧ s.sup.stoppingTimer = some 499 ∧ s.held = false ∧ s.sup.part = .stopping) ∧
      (∃ s : State, s.held = false ∧ s.sup.part = .stopping ∧ s.sup.stoppingTimer ≠ none) ∧
      ∃ s : State, s.held = false ∧ s.sup.part ≠ .stopping :=
  ⟨⟨partIn .active, by decide⟩, ⟨heldPart, by decide⟩, ⟨stoppingAt 0, by decide⟩, ⟨stoppingAt 498, by decide⟩,
    ⟨stoppingAt 499, by decide⟩, ⟨stoppingAt 0, by decide⟩, ⟨partIn .active, by decide⟩⟩

/-- A part in a select period in progress. -/
def clocking : State := clockIn [false, true, true] (partIn .active)

theorem witness_ResetsLeaveTheResetValues :
    (∃ s : State, s.cal.store = .idle ∧ s.held = false ∧ s.link.receive = .idle ∧ fits .restart hdr ∧
      fits .restart (full 0)) ∧
    clocking.cal.store = .idle ∧ clocking.held = false ∧ clocking.link.receive ≠ .idle :=
  ⟨⟨partIn .active, by decide⟩, by decide +kernel⟩

/-- A brownout in a select period, and releases in that period and after its end. -/
theorem test_release_in_a_select_period :
    seen .brownoutReset clocking
      (fun t => (t.link.receive, seen .vddRecovery t fun u => u.link.receive,
        seen (.nop hdr) t fun u => (u.sdo, seen .vddRecovery u fun v => v.link.receive))) =
      some (.barred, some .barred, some ([], some .idle)) := by decide +kernel

theorem witness_HeldPartTakesNothing :
    (heldPart.held = true ∧ Instr.nop hdr ≠ .powerOnReset ∧ Instr.nop hdr ≠ .vddRecovery ∧
      Instr.nop hdr ≠ .drvenFall ∧ Instr.nop hdr ≠ .drvenRise) ∧
    ((requestParts (.nop hdr)).isSome = true ∧ requestParts .bodyAgeTick = none ∧
      (∀ f, Instr.bodyAgeTick ≠ .invalidFrame f)) ∧ heldPart.link.receive = .idle ∧
    ({ clocking with held := true } : State).link.receive ≠ .idle ∧ State.reset.held = false :=
  ⟨⟨rfl, nofun, nofun, nofun, nofun⟩, ⟨rfl, rfl, nofun⟩, rfl, by decide +kernel, rfl⟩

theorem witness_StartLoadDecidesTheImage :
    (∃ s : State, s.held = false ∧ s.sup.part = .start) ∧ ∃ s : State, s.held = false ∧ s.sup.part ≠ .start :=
  ⟨⟨State.reset, by decide⟩, ⟨partIn .limp, by decide⟩⟩

/-- Samples at both ends of the good range and just outside it; the filter initialised, stepped and held, SENSOR set. -/
theorem witness_PeriodAcquiresTravel :
    (∃ s : State, s.held = false ∧ s.sup.part ≠ .start ∧ imageIsValid s ∧ (s.acq.get .fl).filter = none ∧
      seen (.controlPeriod .fl 100) s (fun t => t.acq.fl.sensor) = some false ∧
      seen (.controlPeriod .fl 3995) s (fun t => t.acq.fl.sensor) = some false ∧
      seen (.controlPeriod .fl 99) s (fun t => t.acq.fl.sensor) = some false ∧
      seen (.controlPeriod .fl 3996) s (fun t => t.acq.fl.sensor) = some false) ∧
    (∃ s : State, s.held = false ∧ s.sup.part ≠ .start ∧ imageIsValid s ∧
      (s.acq.get .fl).filter = some ⟨-3200, -3200⟩ ∧
      seen (.controlPeriod .fl 100) s (fun t => t.acq.fl.sensor) = some false) ∧
    (∃ s : State, s.held = false ∧ s.sup.part ≠ .start ∧ (s.acq.get .fl).sensor = true ∧
      seen (.controlPeriod .fl 100) s (fun t => t.acq.fl.sensor) = some true) ∧
    ∃ s : State, s.held = false ∧ s.sup.part ≠ .start ∧ ¬imageIsValid s :=
  ⟨⟨partIn .standby, by decide +kernel⟩, ⟨lawCase .active, by decide +kernel⟩,
    ⟨(partIn .limp).setAcq .fl { Acquisition.reset with sensor := true, good := 18 }, by decide +kernel⟩,
    ⟨blank, by decide +kernel⟩⟩

/-- Acquisition of FL with counts and SENSOR. -/
def counting (bad good : Nat) (sensor : Bool) : State :=
  (partIn .active).setAcq .fl { Acquisition.reset with bad := bad, good := good, sensor := sensor }

theorem witness_SensorFaultRows :
    (∃ s : State, s.held = false ∧ s.sup.part ≠ .start ∧ s.acq.fl.sensor = false ∧ s.acq.fl.bad = 2 ∧
      ¬(100 ≤ (99 : BitVec 12).toNat) ∧ ¬((3996 : BitVec 12).toNat ≤ 3995)) ∧
    (∃ s : State, s.held = false ∧ s.sup.part ≠ .start ∧ s.acq.fl.sensor = true ∧ s.acq.fl.good = 19 ∧
      (100 ≤ (100 : BitVec 12).toNat ∧ (3995 : BitVec 12).toNat ≤ 3995)) ∧
    (∃ s : State, s.held = false ∧ s.sup.part ≠ .start ∧ s.acq.fl.bad + 1 < 3 ∧ s.acq.fl.bad = 1) ∧
    ∃ s : State, s.held = false ∧ s.sup.part ≠ .start ∧ s.acq.fl.good + 1 < 20 ∧ s.acq.fl.good = 18 :=
  ⟨⟨counting 2 0 false, by decide⟩, ⟨counting 0 19 true, by decide⟩, ⟨counting 1 0 false, by decide⟩,
    ⟨counting 0 18 true, by decide⟩⟩

/-- FL's ACTIVE window at a position. -/
def presenting (pos : Int) : State :=
  (lawCase .active).setArb .fl { Arbiter.reset with active := some ⟨window .fl (.event 5) pos, 0⟩, openCount := 1 }

/-- The ACTIVE window at both ends of APPROACH with CONTACT and of REBOUND. -/
theorem witness_PeriodRunsTheLaw :
    (∀ pos, pos = 300 ∨ pos = -399 → ∃ w, (presenting pos).held = false ∧ (presenting pos).sup.part ≠ .start ∧
      imageIsValid (presenting pos) ∧ ((presenting pos).arb.get .fl).active = some w ∧
      (-(w.win.length : Int) < w.win.pos ∧ w.win.pos ≤ w.win.lead)) ∧
    (∀ pos, pos = -400 ∨ pos = -999 → ∃ w, (presenting pos).held = false ∧ (presenting pos).sup.part ≠ .start ∧
      imageIsValid (presenting pos) ∧ ((presenting pos).arb.get .fl).active = some w ∧
      (-((w.win.length : Int) + w.win.trail) < w.win.pos ∧ w.win.pos ≤ -(w.win.length : Int))) ∧
    ((lawCase .stopping).held = false ∧ (lawCase .stopping).sup.part = .stopping ∧ imageIsValid (lawCase .stopping) ∧
      ((lawCase .stopping).arb.get .fl).active = none) ∧
    (partIn .standby).held = false ∧ (partIn .standby).sup.part = .standby ∧ imageIsValid (partIn .standby) := by
  refine ⟨?_, ?_, by decide, by decide⟩ <;> rintro pos (rfl | rfl) <;>
    exact ⟨_, by decide, by decide, by decide, rfl, by decide⟩

/-- FL with a filter value: a sample of 2048 gives a v_rel just under and on each band edge. -/
def filtered (value : Int) : State :=
  (partIn .active).setAcq .fl { Acquisition.reset with filter := some ⟨value, value⟩ }

theorem witness_PeriodTargetsAndLimp :
    ((edge1 image, edge2 image, edge3 image) = (100, 300, 800) ∧
      ([-30, -32, -94, -96, -254, -256].map fun f =>
        seen (.controlPeriod .fl 2048) (filtered f) fun t => (t.acq.fl.vRel, t.cal.working == image)) =
        [some (93, true), some (100, true), some (293, true), some (300, true), some (793, true), some (800, true)]) ∧
    (∀ f, (filtered f).held = false ∧ (filtered f).sup.part ≠ .start ∧ imageIsValid (filtered f)) ∧
    ((partIn .limp).held = false ∧ (partIn .limp).sup.part = .limp ∧ imageIsValid (partIn .limp)) ∧
    (blank.held = false ∧ blank.sup.part = .standby ∧ ¬imageIsValid blank) ∧
    (State.reset.held = false ∧ State.reset.sup.part = .start) ∧
    seen (.controlPeriod .fl 2048) (partIn .stopping) (fun t => t.sup.part) = some .standby :=
  ⟨by decide +kernel, fun _ => ⟨rfl, (nofun : PartState.active ≠ .start), rfl⟩, by decide, by decide, by decide,
    by decide +kernel⟩

/-- A period that ends STOPPING and one that does not. -/
theorem witness_PeriodChangesOnlyItsCorner :
    ((partIn .stopping).held = false ∧ (partIn .stopping).sup.part ≠ .start ∧
      seen (.controlPeriod .fl 2048) (partIn .stopping) (fun t => t.law.fl.cOut) = some 0 ∧
      (partIn .stopping).law.fr.cOut = 0 ∧ (partIn .stopping).law.rl.cOut = 0 ∧
      (partIn .stopping).law.rr.cOut = 0) ∧
    (lawCase .active).held = false ∧ (lawCase .active).sup.part = .active := by decide +kernel

/-- The front band 2 row of section 6.7, with both ends of the row and of its segments, and the highest current. -/
theorem witness_MapReadings :
    (∀ k, k < 11 → mapPoint image .fl 2 k < mapPoint image .fl 2 (k + 1)) ∧ 150 ≤ mapPoint image .fl 2 0 ∧
      mapPoint image .fl 2 11 ≤ 3100 ∧ (mapPoint image .fl 2 0 ≤ 150 ∧ 150 < mapPoint image .fl 2 1) ∧
      (mapPoint image .fl 2 10 ≤ 3099 ∧ 3099 < mapPoint image .fl 2 11) ∧ 1650 ≤ 1650 := by decide +kernel

theorem witness_RoundTripNeverRises :
    (∀ k, k < 11 → mapPoint image .fl 2 k < mapPoint image .fl 2 (k + 1)) ∧ 1650 % 150 = 0 ∧ 1649 ≤ 1650 := by
  decide +kernel

theorem witness_BodyStateIsClampedAndStored :
    (∃ s : State, s.held = false ∧ fits .bodyState hdr ∧ fits .bodyState (full 17) ∧ s.sup.part = .active ∧
      ({ record with direction := 1 } : BodyFields).direction = 0x01) ∧
    ∃ s : State, s.held = false ∧ s.sup.part ≠ .start ∧ record.direction ≠ 0x01 :=
  ⟨⟨partIn .active, by decide⟩, ⟨partIn .limp, by decide⟩⟩

theorem witness_BodyAgeRunsAndDecidesFreshness :
    heldPart.held = true ∧ State.reset.held = false ∧ (moving 0 0).bodyFresh = true ∧
      ((moving 0 0).setMotion { motion 0 with age := 20 }).bodyFresh = true ∧
      ((moving 0 0).setMotion { motion 0 with age := 21 }).bodyFresh = false := by decide +kernel

/-- Mode codes 3 and 4, a repeated code, and a request that is refused. -/
theorem witness_ValidFramesFeedTheModeSelector :
    requestParts (.goActive { hdr with mode := 3 }) = some (.goActive, { hdr with mode := 3 }, []) ∧
      RequestKind.goActive ≠ .restart ∧ State.reset.held = false ∧ fits .goActive { hdr with mode := 3 } ∧
      Mode.dynamic.code = (3 : BitVec 4).toNat ∧ requestParts (.nop { hdr with mode := 4 }) =
        some (.nop, { hdr with mode := 4 }, []) ∧ fits .nop { hdr with mode := 4 } ∧ 4 ≤ (4 : BitVec 4).toNat ∧
      ({ State.reset with modes := { inForce := .normal, lastCode := some .dynamic } } : State).modes.lastCode =
        some .dynamic := by decide

/-- Event 5 of section 3.8 as it is sent. -/
def sent : EventFields :=
  { tag := 5, track := 1, severity := 4, report := 2, distance := 1500, length := 40, lead := 30, trail := 60,
    cSoft := 400, cFirm := 2400 }

/-- At the near edge: the front windows are passed at exactly length + trail. -/
def nearEdge : EventFields :=
  { tag := 9, track := 3, severity := 3, report := 1, distance := BitVec.ofInt 16 (-400), length := 300, lead := 100,
    trail := 100, cSoft := 400, cFirm := 2400 }

/-- Every refusing part state, and an event with each value that is refused, at the ends of the ranges. -/
theorem witness_AdmissionChecksInOrder :
    ((State.reset.held = false ∧ fits .previewEvent hdr ∧ fits .previewEvent (full 16) ∧ State.reset.sup.part = .start) ∧
      ∀ p, (partIn p).held = false ∧ (partIn p).sup.part = p) ∧
    ((moving 2000 0).held = false ∧ (moving 2000 0).sup.part = .active ∧ (moving 2000 0).motion.direction = .forward ∧
      24 ≤ ({ sent with tag := 24 } : EventFields).tag.toNat) ∧
    ((halfServed .late 0).held = false ∧ (halfServed .late 0).sup.part = .active ∧ sent.tag.toNat < 24 ∧
      tagTaken (halfServed .late 0) sent.tag.toNat) ∧
    (({ sent with tag := 23 } : EventFields).tag.toNat < 24 ∧ ¬tagTaken (moving 2000 0) 23 ∧
      ¬valuesTaken { sent with tag := 23, severity := 8 } ∧ ¬valuesTaken { sent with distance := 8001 } ∧
      valuesTaken { sent with severity := 7, distance := 8000 }) ∧
    ((moving 2000 0).setMotion { motion 0 with direction := .reverse }).motion.direction = .reverse ∧
    valuesTaken { nearEdge with length := 30, trail := 50 } ∧
    ∀ c ∈ wheelsOf nearEdge.track, passedAtAdmission (moving 2000 0) { nearEdge with length := 30, trail := 50 } c :=
  ⟨⟨by decide, fun _ => ⟨rfl, rfl⟩⟩, by decide, by decide +kernel, by decide +kernel, rfl, by decide +kernel,
    by decide +kernel⟩

theorem witness_AdmissionMakesEventAndWindows :
    ((moving 2000 0).held = false ∧ fits .previewEvent hdr ∧ (moving 2000 0).sup.part = .active ∧
      (moving 2000 0).motion.direction = .forward) ∧
    (nearEdge.tag.toNat < 24 ∧ ¬tagTaken (moving 2000 0) nearEdge.tag.toNat ∧ valuesTaken nearEdge ∧
      trackOfCode nearEdge.track = some .both ∧ reportOfCode nearEdge.report = some .early ∧
      ∃ c ∈ wheelsOf nearEdge.track, passedAtAdmission (moving 2000 0) nearEdge c = false) ∧
    (sent.tag.toNat < 24 ∧ ¬tagTaken (moving 2000 0) sent.tag.toNat ∧ valuesTaken sent ∧
      trackOfCode sent.track = some .left ∧ reportOfCode sent.report = some .late ∧
      ∃ c ∈ wheelsOf sent.track, passedAtAdmission (moving 2000 0) sent c = false) := by decide +kernel

/-- A window beyond its lead, one at the distance of a step from it, and an open one: each stays or is opened. -/
theorem witness_TravelStepMovesWindows :
    (let s := (halfServed .late 0).setSched { (halfServed .late 0).sched with
       pendingWindows := [window .fl (.event 5) 321, window .fl (.event 5) 320] }
     s.held = false ∧ stepMm s = 20 ∧
       (endsByAge s (window .fl (.event 5) 321) = false ∧ (300 : Int) < 321 - stepMm s) ∧
       (endsByAge s (window .rl (.event 5) 0) = false ∧ window .rl (.event 5) 0 ∈ (s.arb.get .rl).held ∧
         ¬(movedWindow s (window .rl (.event 5) 0)).isPassed ∧
         ∀ x ∈ s.sched.pendingWindows, x.corner = .rl → (x.lead : Int) < x.pos - stepMm s)) ∧
    ((halfServed .late 0).held = false ∧ (halfServed .late 0).windows ≠ [] ∧ (halfServed .late 0).bodyFresh = true) ∧
      ((moving 2000 0).held = false ∧ (moving 2000 0).sched.events = [] ∧ (moving 2000 0).windows = []) ∧
      ∀ c, ((moving 2000 0).arb.get c).selectionDue = false :=
  ⟨by decide +kernel, by decide +kernel, by decide +kernel, Corner.forall_iff.2 (by decide +kernel)⟩

/-- Events 5 and 6 of which 5 reaches max_age at the coming step, and an orphan of that age without an event. -/
def ageing (now : Count) : State :=
  (partIn .active).setSched { Scheduler.reset with
    events := [event 5 .late 0, { event 6 .late 0 with admissionMs := 1 }], pendingWindows := [window .rl (.event 5) 9000],
    msCount := now }

def orphanAged (now : Count) : State :=
  (partIn .active).setSched { Scheduler.reset with
    pendingWindows := [window .rl .orphan 9000], orphanCount := 1, msCount := now }

theorem witness_AgeExpiryEndsEventsAndOrphans :
    ((ageing 4999).held = false ∧ event 5 .late 0 ∈ (ageing 4999).sched.events ∧
      ((ageing 4999).sched.msCount + 1 - (event 5 .late 0).admissionMs).toNat = maxAge (ageing 4999).cal.working) ∧
    ((ageing 4998).held = false ∧ ∀ e ∈ (ageing 4998).sched.events,
      ((ageing 4998).sched.msCount + 1 - e.admissionMs).toNat ≠ maxAge (ageing 4998).cal.working) ∧
    ((orphanAged 4999).held = false ∧ window .rl .orphan 9000 ∈ (orphanAged 4999).windows ∧
      ((orphanAged 4999).sched.msCount + 1 - (window .rl .orphan 9000).admissionMs).toNat =
        maxAge (orphanAged 4999).cal.working) ∧
    (orphanAged 4998).held = false ∧ ∀ w ∈ (orphanAged 4998).windows,
      ((orphanAged 4998).sched.msCount + 1 - w.admissionMs).toNat ≠ maxAge (orphanAged 4998).cal.working := by
  decide +kernel

/-- An event with live windows in the store and an orphan count. -/
def settling (e : Event) (live : List Window) (orphans : Nat) : State :=
  (partIn .active).setSched { Scheduler.reset with events := [e], pendingWindows := live, orphanCount := orphans }

theorem witness_SettlementAndRecords :
    (∃ s : State, ∃ e ∈ s.sched.events, e.report ≠ .early ∧ s.liveWindows e.tag ≠ []) ∧
    (∃ s : State, ∃ e ∈ s.sched.events, e.report ≠ .early ∧ s.liveWindows e.tag = []) ∧
    (∃ s : State, ∃ e ∈ s.sched.events, e.report = .early ∧ ∃ w ∈ s.liveWindows e.tag, w.corner.isFront = true) ∧
    (∃ s : State, ∃ e ∈ s.sched.events, e.report = .early ∧ (∀ w ∈ s.liveWindows e.tag, w.corner.isFront = false) ∧
      (s.liveWindows e.tag).length = 2 ∧ s.sched.orphanCount = 30 ∧
      (s.liveWindows e.tag).length ≤ 32 - s.sched.orphanCount) ∧
    (∃ s : State, ∃ e ∈ s.sched.events, e.report = .early ∧ (∀ w ∈ s.liveWindows e.tag, w.corner.isFront = false) ∧
      s.sched.orphanCount = 31 ∧ 32 - s.sched.orphanCount < (s.liveWindows e.tag).length) ∧
    ((event 5 .early 1).report = .early ∧ (event 5 .forcedLate 1).report ≠ .early ∧
      (recordOf .normal 0 (event 5 .late 1)).served = 1 ∧ (recordOf .normal 0 (event 5 .late 1)).overridden = 0 ∧
      (recordOf .normal 0 { event 5 .late 1 with rear := ⟨0, 1, 0⟩ }).overridden = 1 ∧
      (recordOf .normal 0 (event 5 .late 0)).served = 0) := by
  refine ⟨⟨settling (event 5 .late 0) [window .rl (.event 5) 900] 0, _, List.mem_singleton.2 rfl, by decide +kernel⟩,
    ⟨settling (event 5 .forcedLate 0) [] 0, _, List.mem_singleton.2 rfl, by decide +kernel⟩,
    ⟨settling (event 5 .early 0) [window .fl (.event 5) 900] 0, _, List.mem_singleton.2 rfl, by decide +kernel⟩,
    ⟨settling (event 5 .early 0) [window .rl (.event 5) 900, window .rr (.event 5) 900] 30, _,
      List.mem_singleton.2 rfl, by decide +kernel⟩,
    ⟨settling (event 5 .early 0) [window .rl (.event 5) 900, window .rr (.event 5) 900] 31, _,
      List.mem_singleton.2 rfl, by decide +kernel⟩, by decide +kernel⟩

/-- A window of a severity in arbitration. -/
def held (severity : Nat) : HeldWindow := ⟨{ window .rr .orphan 100 with severity := severity }, 0⟩

def arbiter (active : Option HeldWindow) (stack waiting : List HeldWindow) : Arbiter :=
  { Arbiter.reset with active := active, stack := stack, waiting := waiting }

theorem witness_ArbiterOpens :
    (∃ a : Arbiter, (held 3).win.severity < a.minSeverity ∧ a.minSeverity = 4) ∧
    (∃ a : Arbiter, a.minSeverity ≤ (held 3).win.severity ∧ a.minSeverity = 3 ∧ a.active = none) ∧
    (∃ a : Arbiter, a.minSeverity ≤ (held 3).win.severity ∧ a.active = some (held 3) ∧
      (held 3).win.severity ≤ (held 3).win.severity) ∧
    (∃ a : Arbiter, a.minSeverity ≤ (held 6).win.severity ∧ a.active = some (held 5) ∧
      (held 5).win.severity < (held 6).win.severity ∧ a.stack.length = 2 ∧ a.stack.length < 3) ∧
    ∃ a : Arbiter, a.minSeverity ≤ (held 6).win.severity ∧ a.active = some (held 5) ∧
      (held 5).win.severity < (held 6).win.severity ∧ a.stack = [held 2, held 3, held 4] :=
  ⟨⟨{ Arbiter.reset with minSeverity := 4 }, by decide⟩, ⟨{ Arbiter.reset with minSeverity := 3 }, by decide⟩,
    ⟨arbiter (some (held 3)) [] [], by decide⟩, ⟨arbiter (some (held 5)) [held 3, held 4] [], by decide⟩,
    ⟨arbiter (some (held 5)) [held 2, held 3, held 4] [], by decide⟩⟩

theorem witness_SelectionPicksTheCandidate :
    (∃ a : Arbiter, a.active = none ∧ a.stack = [held 2] ++ [held 3] ∧
      ∀ x ∈ a.waiting, x.win.severity ≤ (held 3).win.severity) ∧
    (∃ a : Arbiter, a.active = none ∧ a.waiting = [held 3] ++ held 4 :: [held 4] ∧
      (∀ y ∈ [held 3], y.win.severity < (held 4).win.severity) ∧
      (∀ y ∈ [held 4], y.win.severity ≤ (held 4).win.severity) ∧ a.stack.getLast? = some (held 3) ∧
      (held 3).win.severity < (held 4).win.severity) ∧
    ∃ a : Arbiter, a.active = none ∧ a.stack = [] ∧ a.waiting = [] :=
  ⟨⟨arbiter none [held 2, held 3] [held 3], by decide⟩, ⟨arbiter none [held 3] [held 3, held 4, held 4], by decide⟩,
    ⟨Arbiter.reset, by decide⟩⟩

/-- A window at a position, in arbitration: PASSED at −1000 mm and not yet at −999 mm. -/
def heldAt (pos : Int) : HeldWindow := ⟨window .fl .orphan pos, 0⟩

theorem witness_ArbiterDepartures :
    (∃ a : Arbiter, a.active = some (heldAt (-1000)) ∧ (heldAt (-1000)).win.isPassed) ∧
    (∃ a : Arbiter, a.active = some (heldAt (-999)) ∧ ¬(heldAt (-999)).win.isPassed) ∧
    (∃ a : Arbiter, a.active = none ∧ a.selectionDue = true) ∧
    (∃ a : Arbiter, a.active = none ∧ a.selectionDue = false) ∧
    (∃ a : Arbiter, a.active = some (heldAt 0) ∧ isOrphan (heldAt 0).win = true) ∧
    ∃ a : Arbiter, a.active = some (heldAt 0) ∧ ofEvent 5 (heldAt 0).win = false :=
  ⟨⟨arbiter (some (heldAt (-1000))) [heldAt (-1000)] [heldAt 0], by decide⟩,
    ⟨arbiter (some (heldAt (-999))) [heldAt (-1000)] [heldAt 0], by decide⟩,
    ⟨{ Arbiter.reset with selectionDue := true }, by decide⟩, ⟨Arbiter.reset, by decide⟩,
    ⟨arbiter (some (heldAt 0)) [heldAt 0] [], by decide⟩, ⟨arbiter (some (heldAt 0)) [heldAt 0] [], by decide⟩⟩

theorem witness_CancelEndsAnEvent :
    ((halfServed .late 0).held = false ∧ fits .cancelEvent hdr ∧ fits .cancelEvent (full 1) ∧
      (halfServed .late 0).sup.part = .active) ∧
    ((partIn .standby).sup.part = .standby ∧ (partIn .stopping).sup.part = .stopping ∧ 24 ≤ (24 : Byte).toNat) ∧
    ((23 : Byte).toNat < 24 ∧ (∀ e ∈ (halfServed .late 0).sched.events, e.tag ≠ (23 : Byte).toNat) ∧
      (23 : Byte).toNat ∉ (halfServed .late 0).sched.completions.map Completion.tag) ∧
    ((5 : Byte).toNat ∈ ((partIn .standby).setSched { Scheduler.reset with completions := [done 5] }).sched.completions.map
      Completion.tag) ∧
    (halfServed .late 0).sched.events = [] ++ event 5 .late 1 :: [] ∧ (event 5 .late 1).tag = (5 : Byte).toNat := by
  decide +kernel

theorem witness_FlushPreviewFlushes :
    ((partIn .active).held = false ∧ fits .flushPreview hdr ∧ fits .flushPreview (full 0)) ∧
      (halfServed .late 0).sup.part = .active ∧ (partIn .standby).sup.part = .standby ∧
      (partIn .stopping).sup.part = .stopping := by decide +kernel

theorem witness_CollectRemovesTheOldest :
    (partIn .limp).held = false ∧ fits .collect hdr ∧ fits .collect (full 1) ∧ (partIn .limp).sup.part ≠ .start := by
  decide

theorem witness_CornerOptionsReplaceAllCorners :
    (partIn .active).held = false ∧ fits .cornerOptions hdr ∧ fits .cornerOptions (full 8) ∧
      (partIn .active).sup.part = .active ∧ (partIn .standby).sup.part = .standby ∧
      (partIn .stopping).sup.part = .stopping := by decide

theorem witness_ReadCornerShowsTheCorner :
    ((presenting 0).held = false ∧ fits .readCorner hdr ∧ fits .readCorner (full 1) ∧ (presenting 0).sup.part ≠ .start) ∧
    (4 ≤ (4 : Byte).toNat ∧ Corner.rr.index = (3 : Byte).toNat) ∧ ((presenting 0).arb.get .fr).active = none ∧
    (∀ pos, ((presenting pos).arb.get .fl).active = some ⟨window .fl (.event 5) pos, 0⟩) ∧
    ((halfServed .late 0).setArb .rl (arbiter (some (heldAt 0)) [] [])).arb.rl.active = some (heldAt 0) ∧
    (heldAt 0).win.parent = .orphan ∧
    (0 < (window .fl (.event 5) 1).pos ∧ (window .fl (.event 5) 300).pos ≤ (window .fl (.event 5) 300).lead) ∧
    (-((window .fl (.event 5) (-399)).length : Int) < (window .fl (.event 5) (-399)).pos ∧
      (window .fl (.event 5) 0).pos ≤ 0) ∧
    ¬(window .fl (.event 5) (-999)).isPassed ∧
      (window .fl (.event 5) (-400)).pos ≤ -((window .fl (.event 5) (-400)).length : Int) :=
  ⟨by decide +kernel, by decide, by decide +kernel, fun _ => rfl, by decide +kernel, by decide, by decide, by decide,
    by decide, by decide⟩

theorem witness_ClearFaultsReleasesNamedStages :
    ((partIn .standby).held = false ∧ fits .clearFaults hdr ∧ fits .clearFaults (full 1)) ∧
    ((partIn .active).sup.part = .active ∧ (partIn .stopping).sup.part = .stopping) ∧
    ((partIn .standby).sup.part = .standby ∧ (0xF0 : Byte) &&& 0x0F = 0 ∧ (0x01 : Byte) &&& 0x0F ≠ 0) ∧
    ((0x01 : Byte).getLsbD Corner.rr.index = false ∧ (0x01 : Byte).getLsbD Corner.fl.index = true) ∧
    ((withDrive .limp { Drive.reset with state := .faultShort }).held = false ∧
      (withDrive .limp { Drive.reset with state := .faultShort }).sup.part = .limp ∧
      (withDrive .limp { Drive.reset with state := .faultShort }).drive.fl.state = .faultShort ∧
      (withDrive .limp { Drive.reset with state := .faultShort }).sup.source.fl ≠ .none ∧
      (withDrive .limp { Drive.reset with state := .faultShort }).drven = true) ∧
    ((withDrive .standby { Drive.reset with state := .faultOpen }).drive.fl.state = .faultOpen ∧
      (withDrive .standby { Drive.reset with state := .faultOpen }).sup.source.fl = .none) ∧
    ((partIn .limp).drive.fl.state ≠ .faultOpen ∧ (partIn .limp).drive.fl.state ≠ .faultShort) :=
  ⟨by decide, by decide, by decide, by decide, by decide, by decide, by decide⟩

/-- The threshold current itself is no overcurrent, and the 49th met period of an open-coil test is not the last. -/
theorem witness_RegulatingPeriodRunsTheLoop :
    (∃ s : State, s.held = false ∧ s.drive.fl.state = .regulating ∧
      min 4095 2000 ≤ overcurrentThreshold s.cal.working ∧ s.drive.fl.cleanRun < 10000) ∧
    ∃ s : State, s.held = false ∧ s.drive.fl.state = .regulating ∧
      min 4095 29 ≤ overcurrentThreshold s.cal.working ∧
      (nextDuty s s.drive.fl (min 4095 29) = 950 ∧ 200 ≤ s.drive.fl.latch ∧ min 4095 29 < 30) ∧
      s.drive.fl.openCount + 1 = 49 ∧ s.drive.fl.retry = 0 :=
  ⟨⟨withDrive .active { regulating with cleanRun := 9999 }, by decide +kernel⟩,
    ⟨withDrive .active { regulating with duty := 950, latch := 200, openCount := 48, cleanRun := 10000 },
      by decide +kernel⟩⟩

theorem witness_HardFaultsCutTheDrive :
    (∃ s : State, s.held = false ∧ s.drive.fl.state = .regulating ∧
      overcurrentThreshold s.cal.working < min 4095 2001 ∧ s.drive.fl.retry + 1 ≤ retryLimit s.cal.working) ∧
    (∃ s : State, s.held = false ∧ s.drive.fl.state = .regulating ∧
      overcurrentThreshold s.cal.working < min 4095 5000 ∧ retryLimit s.cal.working < s.drive.fl.retry + 1) ∧
    ∃ s : State, s.held = false ∧ s.drive.fl.state = .regulating ∧
      min 4095 29 ≤ overcurrentThreshold s.cal.working ∧ nextDuty s s.drive.fl (min 4095 29) = 950 ∧
      200 ≤ s.drive.fl.latch ∧ min 4095 29 < 30 ∧ s.drive.fl.openCount = 49 :=
  ⟨⟨withDrive .active { regulating with retry := 1 }, by decide +kernel⟩,
    ⟨withDrive .active { regulating with retry := 2 }, by decide +kernel⟩,
    ⟨withDrive .limp { regulating with duty := 950, latch := 200, openCount := 49 }, by decide +kernel⟩⟩

theorem witness_WaitingAndIdlePeriods :
    (∃ s : State, s.held = false ∧ s.drive.fl.state = .off) ∧
    (∃ s : State, s.held = false ∧ s.drive.fl.state = .faultShort) ∧
    (∃ s : State, s.held = false ∧ s.drive.fl.state = .overloadWait ∧
      s.drive.fl.wait + 1 < 10 * retryDelay s.cal.working ∧ s.drive.fl.wait = 498) ∧
    ∃ s : State, s.held = false ∧ s.drive.fl.state = .overloadWait ∧
      s.drive.fl.wait + 1 = 10 * retryDelay s.cal.working ∧ min 4095 2000 ≤ overcurrentThreshold s.cal.working :=
  ⟨⟨withDrive .standby Drive.reset, by decide⟩, ⟨withDrive .limp { Drive.reset with state := .faultShort }, by decide⟩,
    ⟨withDrive .active { Drive.reset with state := .overloadWait, retry := 1, wait := 498 }, by decide +kernel⟩,
    ⟨withDrive .active { Drive.reset with state := .overloadWait, retry := 1, wait := 499 }, by decide +kernel⟩⟩

/-- Errors of 21 mA at the ceiling and of 20 mA within the band. -/
theorem witness_CountedDrivePeriods :
    (∃ s : State, s.held = false ∧ s.drive.fl.state = .regulating ∧
      min 4095 579 ≤ overcurrentThreshold s.cal.working ∧ s.drive.fl.openCount < 49 ∧
      nextDuty s s.drive.fl (min 4095 579) = 950 ∧ 20 < loopError s.drive.fl (min 4095 579) ∧ s.drive.fl.lowRun = 99 ∧
      s.drive.fl.regLow = false ∧ s.faultSummary .fl = false ∧ s.arb.fl.reportRegLow = true) ∧
    ∃ s : State, s.held = false ∧ s.drive.fl.state = .regulating ∧
      min 4095 580 ≤ overcurrentThreshold s.cal.working ∧ s.drive.fl.openCount < 49 ∧
      (loopError s.drive.fl (min 4095 580)).natAbs ≤ 20 ∧ s.drive.fl.inRun = 99 ∧ s.drive.fl.regLow = true ∧
      s.drive.fl.cleanRun = 9999 :=
  ⟨⟨withDrive .active { regulating with duty := 950, lowRun := 99 }, by decide +kernel⟩,
    ⟨withDrive .active { regulating with duty := 400, inRun := 99, regLow := true, cleanRun := 9999, openCount := 48 },
      by decide +kernel⟩⟩

theorem witness_GoActiveByPartState :
    ((partIn .limp).held = false ∧ fits .goActive hdr ∧ fits .goActive (full 0)) ∧ (partIn .limp).sup.part = .limp ∧
    (blank.held = false ∧ blank.sup.part = .standby ∧ ¬imageIsValid blank) ∧
    (storingPart.sup.part = .standby ∧ imageIsValid storingPart ∧ storingPart.cal.store = .busy) ∧
    (({ partIn .standby with drven := false } : State).cal.store = .idle ∧ imageIsValid (partIn .standby)) ∧
    ((partIn .standby).sup.part = .standby ∧ (partIn .standby).cal.store = .idle ∧ (partIn .standby).drven = true) ∧
    (partIn .active).sup.part = .active ∧ (partIn .stopping).sup.part = .stopping :=
  ⟨by decide, by decide, by decide, by decide, by decide, by decide, by decide, by decide⟩

theorem witness_GoStandbyByPartState :
    (State.reset.held = false ∧ fits .goStandby hdr ∧ fits .goStandby (full 0)) ∧ State.reset.sup.part = .start ∧
      ∀ p, (partIn p).held = false ∧ (partIn p).sup.part = p := ⟨by decide, by decide, fun _ => ⟨rfl, rfl⟩⟩

theorem witness_EnterLimpByPartState :
    (State.reset.held = false ∧ fits .enterLimp hdr ∧ fits .enterLimp (full 0)) ∧ State.reset.sup.part = .start ∧
      ∀ p, (partIn p).held = false ∧ (partIn p).sup.part = p := ⟨by decide, by decide, fun _ => ⟨rfl, rfl⟩⟩

theorem witness_ResumeReturnsToTheLaw :
    (State.reset.held = false ∧ fits .resume hdr ∧ fits .resume (full 0) ∧ State.reset.sup.part = .start) ∧
    ((partIn .standby).sup.part = .standby ∧ (partIn .active).sup.part = .active ∧
      (partIn .stopping).sup.part = .stopping) ∧
    ((withDrive .limp { Drive.reset with state := .faultOpen }).sup.part = .limp ∧
      ((withDrive .limp { Drive.reset with state := .faultOpen }).drive.get .fl).state = .faultOpen) ∧
    ((partIn .limp).held = false ∧ (partIn .limp).sup.part = .limp ∧ (partIn .limp).drven = true ∧
      ∀ c, ((partIn .limp).drive.get c).state = .off) :=
  ⟨by decide, by decide, by decide, by decide, by decide, by decide, Corner.forall_iff.2 (by decide)⟩

theorem witness_DrvenEdges :
    (∀ p, (partIn p).held = false ∧ (partIn p).drven = true ∧ (partIn p).sup.part = p) ∧
      ({ partIn .limp with drven := false } : State).held = false ∧
      ({ partIn .limp with drven := false } : State).drven = false ∧
      (withDrive .active regulating).drive.fl.state.driving = true ∧
      (partIn .limp).drive.fl.state = .off ∧ (partIn .limp).sup.source.fl ≠ .none :=
  ⟨fun _ => ⟨rfl, rfl, rfl⟩, by decide, by decide, by decide, by decide, by decide⟩

/-- Silence counts on both sides of limp_timeout, in each part state, and a count at its end. -/
theorem witness_SilenceCountAndExpiry :
    (∀ p n, ({ partIn p with link := { LinkPort.reset .power with silence := n } } : State).held = false ∧
      imageIsValid ({ partIn p with link := { LinkPort.reset .power with silence := n } } : State)) ∧
    (limpTimeout (partIn .active).cal.working = 50 ∧ (49 : Nat) ≠ 50 ∧ (501 : Nat) ≠ 50) ∧
    State.reset.held = false ∧ ¬imageIsValid State.reset :=
  ⟨fun _ _ => ⟨rfl, rfl⟩, by decide +kernel, by decide, by decide⟩

theorem witness_StatusReportsAndClears :
    State.reset.held = false ∧ fits .status hdr ∧ fits .status (full 0) := by decide

/-- A download that has accepted `n` segments. -/
def receiving (n : Nat) : State :=
  { blank with cal := { blank.cal with
      working := [(0, 1), (319, 2)], imageState := .receiving, download := .receiving, expected := n, accepted := n } }

/-- The first segment, one in sequence, the last before END, and each way out of sequence. -/
theorem witness_SegmentsFollowTheSequenceRule :
    (blank.held = false ∧ fits .calSegment hdr ∧ fits .calSegment (full 34) ∧ blank.sup.part = .standby ∧
      blank.cal.store = .idle ∧ blank.cal.working.wf) ∧
    (10 ≤ (10 : Byte).toNat ∧ (9 : Byte).toNat < 10 ∧ (0 : Byte).getLsbD 0 = false ∧
      blank.cal.download ≠ .receiving) ∧
    ((0 : Byte).toNat = 0 ∧ (1 : Byte).getLsbD 0 = true ∧ (1 : Byte).getLsbD 1 = false) ∧
    ((receiving 8).held = false ∧ (receiving 8).sup.part = .standby ∧ (receiving 8).cal.store = .idle ∧
      (receiving 8).cal.working.wf ∧ (receiving 8).cal.download = .receiving ∧ (8 : Byte).toNat < 9 ∧
      (8 : Byte).toNat = (receiving 8).cal.expected ∧ ((0 : Byte).getLsbD 1 = true ↔ (8 : Byte).toNat = 9)) ∧
    ((1 : Byte).toNat = (receiving 1).cal.expected ∧ ((0 : Byte).getLsbD 1 = true ↔ (1 : Byte).toNat = 9)) ∧
    ((1 : Byte).toNat ≠ 0 ∧ (3 : Byte).getLsbD 1 = true) ∧
    (¬((5 : Byte).toNat = (receiving 4).cal.expected ∧ ((0 : Byte).getLsbD 1 = true ↔ (5 : Byte).toNat = 9)) ∧
      ¬((4 : Byte).toNat = (receiving 4).cal.expected ∧ ((2 : Byte).getLsbD 1 = true ↔ (4 : Byte).toNat = 9)) ∧
      ¬((9 : Byte).toNat = (receiving 9).cal.expected ∧ ((0 : Byte).getLsbD 1 = true ↔ (9 : Byte).toNat = 9))) :=
  ⟨by decide, by decide, by decide, by decide +kernel, by decide, by decide, by decide⟩

theorem witness_EndSegmentValidates :
    (receiving 9).held = false ∧ fits .calSegment hdr ∧ (receiving 9).sup.part = .standby ∧
      (receiving 9).cal.store = .idle ∧ (receiving 9).cal.working.wf ∧ (receiving 9).cal.download = .receiving ∧
      (receiving 9).cal.expected = 9 ∧ (2 : Byte).getLsbD 0 = false ∧ (2 : Byte).getLsbD 1 = true := by decide +kernel

/-- An image of which only the CRC is not 0. -/
def zeros (crc : Nat) : Memory := listed 318 (pairs [crc])

theorem zeros_crc (n : Nat) (h : n = 1 ∨ n = 0x3693) : crc16 ((zeros n).bytes 0 318) = 0x3693 := by
  have run := crc_of_registers (m := zeros n) [0xF14C, 0xD6DA, 0x8A2C, 0xF00A, 0x0548, 0x83F2, 0xB71D, 0x41E8, 0x3E2F]
    0x3693 rfl
  rcases h with rfl | rfl <;> exact run (by decide +kernel) (by decide +kernel)

theorem orderImage_crcHolds : crcHolds (imageOf 300 2940 0x49A4) = true :=
  crcHolds_of_registers [0xD8E9, 0xB0ED, 0x0902, 0x5DD5, 0x8321, 0x8F4E, 0x4784, 0xD66F, 0xFF9B] 0x49A4 rfl
    (by decide +kernel) (by decide +kernel) (by decide +kernel)

/-- Below an offset no field of the image is out of its range. -/
theorem inRange_below {m : Memory} (n : Nat)
    (h : (fieldRanges.all fun f => f.inRange m || decide (n ≤ f.offset)) = true) : ∀ p, p < n → ¬outOfRange m p := by
  intro p hp hout
  obtain ⟨f, hf, rfl, hfail⟩ := outOfRange_fails hout
  have := List.all_eq_true.1 h f hf
  simp [hfail] at this
  omega

/-- Below an offset every inner map point is above the one before it. -/
theorem inOrder_below {m : Memory} (n : Nat)
    (h : (innerPoints.all fun o => decide (m.word (o - 2) < m.word o) || decide (n ≤ o)) = true) :
    ∀ p, p < n → ¬outOfOrder m p := by
  intro p hp hout
  obtain ⟨hmem, hle⟩ := outOfOrder_mem hout
  have := List.all_eq_true.1 h p hmem
  simp at this
  omega

/-- The checks of the ranges and of the rows look below offset 300. -/
theorem below_suffices {m : Memory} :
    ((∀ p, p < 300 → ¬outOfRange m p) → ∀ p, ¬outOfRange m p) ∧
      ((∀ p, p < 300 → ¬outOfOrder m p) → ∀ p, ¬outOfOrder m p) := by
  have hends : (∀ f ∈ fieldRanges, f.offset < 300) ∧ ∀ o ∈ innerPoints, o < 300 := by decide +kernel
  constructor <;> intro h p hout
  · obtain ⟨f, hf, hoff, -⟩ := outOfRange_fails hout
    exact h p (hoff ▸ hends.1 f hf) hout
  · exact h p (hends.2 p (outOfOrder_mem hout).1) hout

/-- A CRC that fails; wheelbase 0, at byte 2, below its range; the last map point, at byte 298, equal to the point before it; the second edge
below the first; and an image in which nothing fails. -/
theorem witness_ValidationMeansEveryCheck :
    (crc16 ((zeros 1).bytes 0 318)).toNat ≠ (zeros 1).word 318 ∧
    (crcHolds (zeros 0x3693) = true ∧ firstAt (outOfRange (zeros 0x3693)) 2) ∧
    (crcHolds (imageOf 300 2940 0x49A4) = true ∧ (∀ p, ¬outOfRange (imageOf 300 2940 0x49A4) p) ∧
      firstAt (outOfOrder (imageOf 300 2940 0x49A4)) 298) ∧
    (crcHolds (imageOf 90 3500 0x2033) = true ∧ (∀ p, ¬outOfRange (imageOf 90 3500 0x2033) p) ∧
      (∀ p, ¬outOfOrder (imageOf 90 3500 0x2033) p) ∧ firstAt (edgeNotAbove (imageOf 90 3500 0x2033)) 34) ∧
    (crcHolds image = true ∧ (∀ p, ¬outOfRange image p) ∧ (∀ p, ¬outOfOrder image p) ∧ ∀ p, ¬edgeNotAbove image p) := by
  have hedges : (imageOf 90 3500 0x2033).word 34 ≤ (imageOf 90 3500 0x2033).word 32 := by decide +kernel
  have himage : image.word 32 < image.word 34 ∧ image.word 34 < image.word 36 := by decide +kernel
  refine ⟨?_, ⟨?_, ?_, inRange_below 2 (by decide +kernel)⟩, ⟨orderImage_crcHolds, ?_, ?_, ?_⟩,
    ⟨edgeImage_crcHolds, ?_, ?_, ⟨.inl rfl, hedges⟩, ?_⟩, image_crcHolds, ?_⟩
  · rw [zeros_crc 1 (.inl rfl)]
    decide
  · rw [crcHolds, zeros_crc _ (.inr rfl)]
    decide
  · exact .inl (.inl ⟨rfl, by decide⟩)
  · exact below_suffices.1 (inRange_below 300 (by decide +kernel))
  · exact ⟨7, 10, by decide, by decide, rfl, by decide +kernel⟩
  · exact inOrder_below 298 (by decide +kernel)
  · exact below_suffices.1 (inRange_below 300 (by decide +kernel))
  · exact below_suffices.2 (inOrder_below 300 (by decide +kernel))
  · rintro p hp ⟨rfl | rfl, -⟩ <;> omega
  · refine ⟨below_suffices.1 (inRange_below 300 (by decide +kernel)),
      below_suffices.2 (inOrder_below 300 (by decide +kernel)), ?_⟩
    rintro p ⟨rfl | rfl, h⟩
    · exact absurd h (Nat.not_le.2 himage.1)
    · exact absurd h (Nat.not_le.2 himage.2)

theorem witness_ReadingRequestsChangeNothing :
    (partIn .limp).held = false ∧ fits .nop (full 0) ∧ fits .ident (full 0) ∧ fits .calRead (full 1) ∧
      (partIn .limp).sup.part ≠ .start ∧ 10 ≤ (10 : Byte).toNat ∧ (9 : Byte).toNat < 10 := by decide

theorem witness_StoresBeginEndAndBreak :
    (storingPart.held = false ∧ storingPart.cal.working.wf ∧ fits .calStore hdr ∧ fits .calStore (full 0) ∧
      storingPart.sup.part = .standby ∧ storingPart.cal.store = .busy) ∧
    (blank.held = false ∧ blank.cal.working.wf ∧ blank.sup.part = .standby ∧ blank.cal.store = .idle ∧
      ¬imageIsValid blank) ∧
    (let s : State := { blank with cal := { blank.cal with imageState := .valid } }
     s.held = false ∧ s.cal.working.wf ∧ s.sup.part = .standby ∧ s.cal.store = .idle ∧ imageIsValid s) ∧
    ([(319, 7)] : List (Nat × Byte)) = [(319, 7)] ∧
    storingPart.cal.nvMark = false ∧ fits .restart hdr :=
  ⟨by decide +kernel, by decide, by decide, rfl, by decide, by decide⟩

/-- One frame for each check, at the lengths where the checks meet. -/
theorem witness_FrameChecksInOrder :
    384 < frameBits { bytes := List.replicate 48 0, extraBits := 1 } ∧
      frameBits { bytes := List.replicate 48 0, extraBits := 0 } ≤ 384 ∧
      (frameBits { bytes := [], extraBits := 7 } ≤ 384 ∧ (7 : Fin 8) ≠ 0) ∧
      0x13 < (0x14 : Byte).toNat ∧ RequestKind.restart.code = 0x13 ∧ RequestKind.nop.code = 0x01 ∧
      ([0x01, 0x11] : List Byte).length < 3 ∧ (1 : Byte).toNat ≠ RequestKind.nop.payload ∧
      ((0 : Byte).toNat = RequestKind.nop.payload ∧ ([0x01, 0x21, 0x00, 0xCE] : List Byte).length < RequestKind.nop.payload + 5) ∧
      (RequestKind.nop.payload + 5 ≤ ([0x01, 0x21, 0x00, 0xCE, 0x7B] : List Byte).length ∧
        half (crc16 [0x01, 0x21, 0x00]) = [0xCE, 0x7B] ∧ half (crc16 [0x01, 0x21, 0x00]) ≠ [0xCE, 0x7A]) := by
  decide +kernel

theorem witness_InvalidFramesAreRejected :
    State.reset.held = false ∧
      (([true] : List Bool) ≠ [] ∧ frameFault (gatherBits [true]) = some .shortFrame) ∧
      (requestParts (.nop { hdr with pad := 44 }) = some (.nop, { hdr with pad := 44 }, []) ∧
        ¬fits .nop { hdr with pad := 44 }) ∧
      frameFault (gatherBits (bitsOf [0x01, 0x21, 0x00, 0xCE, 0x7B])) = none := by decide +kernel

theorem witness_RefusalsByPartState :
    (requestParts (.calStore hdr) = some (.calStore, hdr, []) ∧ fits .calStore hdr ∧ State.reset.held = false ∧
      State.reset.sup.part = .start ∧ RequestKind.calStore ≠ .nop ∧ RequestKind.calStore ≠ .status ∧
      RequestKind.calStore ≠ .ident ∧ RequestKind.calStore ≠ .restart) ∧
    (∀ p, (partIn p).held = false ∧ (partIn p).sup.part = p) ∧ storingPart.held = false ∧
    storingPart.sup.part = .standby ∧ storingPart.cal.store = .busy :=
  ⟨by decide, fun _ => ⟨rfl, rfl⟩, by decide, by decide, by decide⟩

/-- The STATUS frame of section 9.9's T1, and the longest padding it can carry. -/
theorem witness_EncodedRequestsDecode :
    (Instr.status hdr).wellFormed = true ∧
      encodeRequest (.status hdr) = some { bytes := [0x02, 0x11, 0x00, 0x92, 0xBE], extraBits := 0 } ∧
      (Instr.status (full 0)).wellFormed = true := by decide +kernel

/-! ## A state at work that meets every law -/

theorem image_wf : image.wf := by decide +kernel

/-- ACTIVE, event 5 half served, its rear window ACTIVE at RL, FL regulating, a travel step at hand. -/
def atWork : State :=
  { (halfServed .late (-980)).setDrive .fl { regulating with latch := 600 } with pending := [.travelStep] }

theorem atWork_part : PartLegal atWork := by unfold PartLegal; decide

theorem atWork_supervisor : SupervisorLegal atWork := by
  unfold SupervisorLegal
  refine ⟨by decide, nofun, by decide, nofun, ?_⟩
  exact ⟨by decide, Corner.forall_iff.2 (by decide)⟩

theorem atWork_images : ImageLegal atWork ∧ DownloadLegal atWork :=
  ⟨⟨image_wf, image_wf, fun _ => test_image_passes⟩, by decide, nofun⟩

theorem atWork_drives : DrivesLegal atWork :=
  have regulates : StageLegal (retryLimit image) { regulating with latch := 600 } := by unfold StageLegal; decide +kernel
  have off : StageLegal (retryLimit image) Drive.reset := by unfold StageLegal; decide +kernel
  Corner.forall_iff.2 ⟨⟨regulates, by decide⟩, ⟨off, by decide⟩, ⟨off, by decide⟩, ⟨off, by decide⟩⟩

theorem atWork_tags : TagsLegal atWork := by unfold TagsLegal; decide

theorem atWork_windows : WindowsLegal atWork ∧ ReachLegal atWork := by
  have hall : ∀ w ∈ atWork.windows, w.parent = .event 5 ∧ ¬w.isPassed := by decide
  refine ⟨⟨fun w hw tag htag => ⟨event 5 .late 1, by decide, ?_⟩, ?_⟩, fun w hw => (hall w hw).2, ?_⟩
  · injection (hall w hw).1.symm.trans htag
  · exact ⟨by decide, by decide, Corner.forall_iff.2 (by decide)⟩
  · exact Corner.forall_iff.2 (by decide)

theorem atWork_arbiters : ArbitersLegal atWork := by
  have empty : ArbiterLegal Arbiter.reset :=
    ⟨Nat.zero_le 3, .nil, nofun, fun _ => ⟨rfl, rfl⟩, rfl⟩
  refine Corner.forall_iff.2 ⟨empty, empty, ⟨Nat.zero_le 3, .nil, fun h _ => ⟨nofun, nofun⟩, nofun, rfl⟩, empty⟩

theorem atWork_ranges : AcquisitionsLegal atWork ∧ CountsLegal atWork := by
  have rest : AcquisitionLegal Acquisition.reset := by
    unfold AcquisitionLegal
    refine ⟨by decide, by decide, by decide, ?_⟩
    exact ⟨by decide, by decide, by decide, by decide, by decide, nofun⟩
  refine ⟨Corner.forall_iff.2 ⟨rest, rest, rest, rest⟩, by decide, by decide, by decide, by decide, ?_⟩
  exact ⟨Corner.forall_iff.2 (by decide), by decide, by decide, by decide, Corner.forall_iff.2 (by decide)⟩

theorem atWork_coefficients : CoefficientsLegal atWork ∧ RestLegal atWork :=
  ⟨⟨Corner.forall_iff.2 (by decide), Corner.forall_iff.2 (by decide), by decide⟩, fun h => absurd h (by decide)⟩

/-- Every premise of the statements about all steps, at one state and the step it makes. -/
theorem witness_EveryStepKeeps :
    (∃ t, step atWork = .next t) ∧ (PartLegal atWork ∧ SupervisorLegal atWork) ∧
      (PartLegal atWork ∧ ImageLegal atWork ∧ DownloadLegal atWork) ∧
      (PartLegal atWork ∧ SupervisorLegal atWork ∧ DrivesLegal atWork) ∧ TagsLegal atWork ∧
      (WindowsLegal atWork ∧ ScheduleEmptyOutsideActive atWork) ∧ ReachLegal atWork ∧ ArbitersLegal atWork ∧
      (PartLegal atWork ∧ ImageLegal atWork ∧ DownloadLegal atWork ∧ AcquisitionsLegal atWork ∧ CountsLegal atWork) ∧
      PartLegal atWork ∧ SupervisorLegal atWork ∧ ImageLegal atWork ∧ DownloadLegal atWork ∧
      CoefficientsLegal atWork ∧ RestLegal atWork := by
  have h := atWork_part
  have hs := atWork_supervisor
  obtain ⟨hi, hd⟩ := atWork_images
  refine ⟨⟨_, rfl⟩, ⟨h, hs⟩, ⟨h, hi, hd⟩, ⟨h, hs, atWork_drives⟩, atWork_tags, ⟨atWork_windows.1, fun hout => absurd rfl hout⟩,
    atWork_windows.2, atWork_arbiters, ⟨h, hi, hd, atWork_ranges⟩, h, hs, hi, hd, atWork_coefficients⟩

end Sys2Proof.Tests
end

section
/-! PROOFS. R22: what the selector does with a code, that no request but RESTART changes the selector after its frame
was taken, and so what every valid frame leaves in it. -/

namespace Sys2Proof.Machine

open Sys2Proof

/-! ## The selector's two steps -/

theorem Mode.code_lt (m : Mode) : m.code < 4 := by cases m <;> decide

theorem modeOfCode_eq_none {code : BitVec 4} (h : 4 ≤ code.toNat) : modeOfCode code = none := by
  cases hm : modeOfCode code with
  | none => rfl
  | some m =>
    have hcode := modeOfCode_eq_some.1 hm
    have hlt := m.code_lt
    omega

theorem handMode_of_mode {code : BitVec 4} {m : Mode} (sel : ModeSelector) (h : m.code = code.toNat) :
    handMode code sel =
      { inForce := if sel.lastCode = some m then m else sel.inForce, lastCode := some m } := by
  simp only [handMode, modeOfCode_eq_some.2 h]

theorem handMode_of_no_mode {code : BitVec 4} (sel : ModeSelector) (h : 4 ≤ code.toNat) :
    handMode code sel = { inForce := sel.inForce, lastCode := none } := by
  simp only [handMode, modeOfCode_eq_none h]

/-! ## The owners of requests keep the selector -/

/-- Performing the request leaves the mode selector as the frame's own code left it. -/
def KeepsModes (perform : State → Performed) : Prop := ∀ s, (perform s).state.modes = s.modes

@[simp] theorem answerDone_state (h : LinkHeader) (payload : List Byte) (s : State) :
    (answerDone h payload s).state = s := rfl

@[simp] theorem refuse_state (h : LinkHeader) (code : RefusalCode) (s : State) : (refuse h code s).state = s := rfl

/-! What the requests do to the blocks leaves the selector alone. -/

@[simp] theorem deliverStatus_modes (s : State) : (deliverStatus s).modes = s.modes := rfl

@[simp] theorem acceptBody_modes (b : BodyFields) (s : State) : (acceptBody b s).modes = s.modes := by
  unfold acceptBody
  split <;> simp

@[simp] theorem admitEvent_modes (s : State) (e : TakenEvent) : (admitEvent s e).modes = s.modes := rfl

@[simp] theorem cancel_modes (e : Event) (s : State) : (cancel e s).modes = s.modes := rfl

@[simp] theorem applyOptions_modes (o : PerCorner OptionFields) (s : State) : (applyOptions o s).modes = s.modes := by
  rw [applyOptions, noteFaultRise_eq]

@[simp] theorem clearNamed_modes (corners : Byte) (s : State) : (clearNamed corners s).modes = s.modes := rfl

@[simp] theorem enterActive_modes (s : State) : (enterActive s).modes = s.modes := rfl

@[simp] theorem returnActive_modes (s : State) : (returnActive s).modes = s.modes := rfl

@[simp] theorem enterStopping_modes (s : State) : (enterStopping s).modes = s.modes := rfl

@[simp] theorem enterStandby_modes (s : State) : (enterStandby s).modes = s.modes := rfl

@[simp] theorem enterLimp_modes (r : LimpReason) (s : State) : (enterLimp r s).modes = s.modes := rfl

@[simp] theorem resumeActive_modes (s : State) : (resumeActive s).modes = s.modes := rfl

@[simp] theorem beginDownload_modes (data : Vector Byte 32) (s : State) : (beginDownload data s).modes = s.modes := rfl

@[simp] theorem acceptSegment_modes (index : Nat) (data : Vector Byte 32) (s : State) :
    (acceptSegment index data s).modes = s.modes := rfl

@[simp] theorem setImageState_modes (st : ImageState) (s : State) : (setImageState st s).modes = s.modes := rfl

@[simp] theorem finishDownload_modes (index : Nat) (data : Vector Byte 32) (s : State) :
    (finishDownload index data s).modes = s.modes := by
  rw [finishDownload, setImageState_modes, State.setCal_modes]

@[simp] theorem abortDownload_modes (s : State) : (abortDownload s).modes = s.modes := rfl

@[simp] theorem beginStore_modes (s : State) : (beginStore s).modes = s.modes := rfl

/-! Each owner, along its checks: a refusal keeps the whole state, and what is done is one of the operations above. -/

theorem answerDone_keepsModes (h : LinkHeader) (payload : List Byte) : KeepsModes (answerDone h payload) := fun _ => rfl

theorem performStatus_keepsModes (h : LinkHeader) : KeepsModes (performStatus h) := deliverStatus_modes

theorem performIdent_keepsModes (h : LinkHeader) : KeepsModes (performIdent h) := fun _ => rfl

theorem performBodyState_keepsModes (h : LinkHeader) (b : BodyFields) : KeepsModes (performBodyState h b) := by
  intro s
  unfold performBodyState
  split <;> simp

theorem performPreviewEvent_keepsModes (h : LinkHeader) (e : EventFields) : KeepsModes (performPreviewEvent h e) := by
  intro s
  unfold performPreviewEvent
  split <;> simp

theorem performCancelEvent_keepsModes (h : LinkHeader) (tag : Byte) : KeepsModes (performCancelEvent h tag) := by
  intro s
  unfold performCancelEvent
  repeat' split
  all_goals simp

theorem performFlushPreview_keepsModes (h : LinkHeader) : KeepsModes (performFlushPreview h) := by
  intro s
  unfold performFlushPreview
  split <;> simp

theorem performCollect_keepsModes (h : LinkHeader) (count : Byte) : KeepsModes (performCollect h count) := by
  intro s
  unfold performCollect
  split <;> simp

theorem performCornerOptions_keepsModes (h : LinkHeader) (o : PerCorner OptionFields) :
    KeepsModes (performCornerOptions h o) := by
  intro s
  unfold performCornerOptions
  split <;> simp

theorem performReadCorner_keepsModes (h : LinkHeader) (number : Byte) : KeepsModes (performReadCorner h number) := by
  intro s
  unfold performReadCorner
  repeat' split
  all_goals simp

theorem performClearFaults_keepsModes (h : LinkHeader) (corners : Byte) :
    KeepsModes (performClearFaults h corners) := by
  intro s
  unfold performClearFaults
  repeat' split
  all_goals simp

theorem performGoActive_keepsModes (h : LinkHeader) : KeepsModes (performGoActive h) := by
  intro s
  unfold performGoActive
  repeat' split
  all_goals simp

theorem performGoStandby_keepsModes (h : LinkHeader) : KeepsModes (performGoStandby h) := by
  intro s
  unfold performGoStandby
  split <;> simp

theorem performEnterLimp_keepsModes (h : LinkHeader) : KeepsModes (performEnterLimp h) := by
  intro s
  unfold performEnterLimp
  split <;> simp

theorem performResume_keepsModes (h : LinkHeader) : KeepsModes (performResume h) := by
  intro s
  unfold performResume
  repeat' split
  all_goals simp

theorem takeSegment_keepsModes (h : LinkHeader) (index flags : Byte) (data : Vector Byte 32) :
    KeepsModes (takeSegment h index flags data) := by
  intro s
  unfold takeSegment
  split
  case h_2 => split <;> simp
  all_goals simp

theorem performCalSegment_keepsModes (h : LinkHeader) (index flags : Byte) (data : Vector Byte 32) :
    KeepsModes (performCalSegment h index flags data) := by
  intro s
  unfold performCalSegment
  repeat' split
  case isFalse.isFalse => exact takeSegment_keepsModes h index flags data s
  all_goals simp

theorem performCalRead_keepsModes (h : LinkHeader) (index : Byte) : KeepsModes (performCalRead h index) := by
  intro s
  unfold performCalRead
  repeat' split
  all_goals simp

theorem performCalStore_keepsModes (h : LinkHeader) : KeepsModes (performCalStore h) := by
  intro s
  unfold performCalStore
  repeat' split
  all_goals simp

/-- Every request but RESTART is a transaction of its own whose owner keeps the selector. -/
theorem exec_request_keepsModes {i : Instr} {k : RequestKind} {h : LinkHeader} {payload : List Byte}
    (hparts : requestParts i = some (k, h, payload)) (hk : k ≠ .restart) :
    ∃ perform, KeepsModes perform ∧ ∀ s, exec i s = transact i h perform s := by
  cases i <;> cases hparts
  case nop => exact ⟨_, answerDone_keepsModes _ _, fun _ => rfl⟩
  case status => exact ⟨_, performStatus_keepsModes _, fun _ => rfl⟩
  case ident => exact ⟨_, performIdent_keepsModes _, fun _ => rfl⟩
  case bodyState => exact ⟨_, performBodyState_keepsModes _ _, fun _ => rfl⟩
  case previewEvent => exact ⟨_, performPreviewEvent_keepsModes _ _, fun _ => rfl⟩
  case cancelEvent => exact ⟨_, performCancelEvent_keepsModes _ _, fun _ => rfl⟩
  case flushPreview => exact ⟨_, performFlushPreview_keepsModes _, fun _ => rfl⟩
  case collect => exact ⟨_, performCollect_keepsModes _ _, fun _ => rfl⟩
  case cornerOptions => exact ⟨_, performCornerOptions_keepsModes _ _, fun _ => rfl⟩
  case readCorner => exact ⟨_, performReadCorner_keepsModes _ _, fun _ => rfl⟩
  case clearFaults => exact ⟨_, performClearFaults_keepsModes _ _, fun _ => rfl⟩
  case goActive => exact ⟨_, performGoActive_keepsModes _, fun _ => rfl⟩
  case goStandby => exact ⟨_, performGoStandby_keepsModes _, fun _ => rfl⟩
  case enterLimp => exact ⟨_, performEnterLimp_keepsModes _, fun _ => rfl⟩
  case resume => exact ⟨_, performResume_keepsModes _, fun _ => rfl⟩
  case calSegment => exact ⟨_, performCalSegment_keepsModes _ _ _ _, fun _ => rfl⟩
  case calRead => exact ⟨_, performCalRead_keepsModes _ _, fun _ => rfl⟩
  case calStore => exact ⟨_, performCalStore_keepsModes _, fun _ => rfl⟩
  case restart => exact absurd rfl hk

/-! ## A valid frame -/

/-- After the transaction of an owner that keeps the selector, the selector has taken the frame's code and no more. -/
theorem transact_handsMode {i : Instr} {k : RequestKind} {h : LinkHeader} {payload : List Byte} {s : State}
    {perform : State → Performed} (hparts : requestParts i = some (k, h, payload)) (hheld : s.held = false)
    (hfit : fits k h) (hkeep : KeepsModes perform) :
    ∃ t, transact i h perform s = .next t ∧ t.modes = handMode h.mode s.modes := by
  refine ⟨_, transact_performs perform hparts hheld hfit, ?_⟩
  rw [State.setReply_modes, hkeep, received, takeFrame_modes, transacted_modes]

/-- Settles O15: every owner but RESTART's keeps the selector, so it ends as `handMode` left it, for which the codes
0..3 and 4..15 are the two cases. -/
theorem validFramesFeedTheModeSelector : Obligations.ValidFramesFeedTheModeSelector := by
  intro i k h payload s hparts hk hheld hfit
  obtain ⟨perform, hkeep, hexec⟩ := exec_request_keepsModes hparts hk
  obtain ⟨t, hrun, hmodes⟩ := transact_handsMode hparts hheld hfit hkeep
  refine ⟨t, (hexec s).trans hrun, fun m hm => ?_, fun hcode => ?_⟩
  · rw [hmodes, handMode_of_mode s.modes hm]
    exact ⟨rfl, rfl⟩
  · rw [hmodes, handMode_of_no_mode s.modes hcode]

end Sys2Proof.Machine
end

section
/-! PROOFS. What the settlement of one event does in each of its branches (R58, R63 to R65), and what a record holds
(R94 to R96). -/

namespace Sys2Proof.Machine

open Sys2Proof

/-! ## Postings -/

/-- A posting in the statements' spelling: the event's tag leaves the table, its record joins the list at its tail. -/
theorem post_eq (cause : EndCause) (e : Event) (sch : Scheduler) :
    post cause e sch = { sch with
      events := sch.events.filter fun x => decide (x.tag ≠ e.tag)
      completions := sch.completions ++ [recordOf cause sch.msCount e] } := by
  have hother : (fun x : Event => x.tag != e.tag) = fun x => decide (x.tag ≠ e.tag) :=
    funext fun x => by rw [Bool.eq_iff_iff, bne_iff_ne, decide_eq_true_iff]
  rw [post, hother]

/-- The change of parent at an EARLY posting, as a change to the windows of the event (R64). -/
theorem orphan_eq (tag : Nat) :
    orphan tag = fun w : Window => if w.parent = .event tag then { w with parent := .orphan } else w := by
  funext w
  simp only [orphan, ofEvent, beq_iff_eq]

/-- An EARLY posting keeps every window of the store in its place; those of the event become orphans (R64). -/
theorem postEarly_windows (e : Event) (s : State) : (postEarly e s).windows = s.windows.map (orphan e.tag) :=
  mapWindows_windows (orphan e.tag) s

theorem postEarly_sched (e : Event) (s : State) :
    (postEarly e s).sched = { s.sched with
      pendingWindows := s.sched.pendingWindows.map (orphan e.tag)
      events := s.sched.events.filter fun x => decide (x.tag ≠ e.tag)
      completions := s.sched.completions ++ [recordOf .normal s.sched.msCount e]
      orphanCount := s.sched.orphanCount + (s.liveWindows e.tag).length } := by
  rw [postEarly, State.setSched_sched, post_eq]
  rfl

/-! ## Settlement, branch by branch -/

section
variable {s : State} {e : Event}

/-- A LATE or FORCED_LATE event waits for all of its windows (R63). -/
theorem settleEvent_late_waits (hreport : e.report ≠ .early) (hlive : s.liveWindows e.tag ≠ []) :
    settleEvent s e = s := by
  rw [settleEvent, if_neg hreport, if_neg hlive]

/-- A LATE or FORCED_LATE event posts once none of its windows is left (R63). -/
theorem settleEvent_late_posts (hreport : e.report ≠ .early) (hlive : s.liveWindows e.tag = []) :
    settleEvent s e = s.setSched (post .normal e s.sched) := by
  rw [settleEvent, if_neg hreport, if_pos hlive]

/-- An EARLY event waits for its front windows (R64). -/
theorem settleEvent_early_waits (hreport : e.report = .early)
    (hfront : ∃ w ∈ s.liveWindows e.tag, w.corner.isFront = true) : settleEvent s e = s := by
  rw [settleEvent, if_pos hreport, if_pos (List.any_eq_true.2 hfront)]

/-- With no front window left, an EARLY event's settlement turns on the room in the pool of orphans (R64, R65). -/
theorem settleEvent_early_rear (hreport : e.report = .early)
    (hrear : ∀ w ∈ s.liveWindows e.tag, w.corner.isFront = false) :
    settleEvent s e =
      if (s.liveWindows e.tag).length ≤ 32 - s.sched.orphanCount then postEarly e s
      else s.setSched (forceLate e.tag s.sched) := by
  have hnofront : ¬ (s.liveWindows e.tag).any (fun w => w.corner.isFront) = true := by
    rw [List.any_eq_true]
    rintro ⟨w, hw, hfront⟩
    exact absurd ((hrear w hw).symm.trans hfront) Bool.false_ne_true
  rw [settleEvent, if_pos hreport, if_neg hnofront, orphanLimit]

end

/-! ## What a record covers and how it ends -/

theorem coveredCounts_early {e : Event} (h : e.report = .early) : coveredCounts e = e.front := by
  rw [coveredCounts, h]

theorem coveredCounts_not_early {e : Event} (h : e.report ≠ .early) : coveredCounts e = e.front.plus e.rear := by
  cases hr : e.report with
  | early => exact absurd hr h
  | late | forcedLate => rw [coveredCounts, hr]

/-- The outcome of a normal end is decided by the counts the record covers (R96). -/
theorem endOutcome_normal_applied {k : OutcomeCounts} (hs : 1 ≤ k.served) (ho : k.overridden = 0) :
    endOutcome .normal k = .applied := by
  rw [endOutcome, if_neg (Nat.one_le_iff_ne_zero.1 hs), if_pos ho]

theorem endOutcome_normal_partly {k : OutcomeCounts} (hs : 1 ≤ k.served) (ho : 1 ≤ k.overridden) :
    endOutcome .normal k = .partly := by
  rw [endOutcome, if_neg (Nat.one_le_iff_ne_zero.1 hs), if_neg (Nat.one_le_iff_ne_zero.1 ho)]

theorem endOutcome_normal_notApplied {k : OutcomeCounts} (hs : k.served = 0) :
    endOutcome .normal k = .notApplied := by
  rw [endOutcome, if_pos hs]

/-! ## The obligation -/

/-- Settles O20: each clause of settlement is a branch of `settleEvent`, and each clause of the record is the count it
covers or its outcome. -/
theorem settlementAndRecords : Obligations.SettlementAndRecords := by
  refine ⟨fun s e _ => ⟨settleEvent_late_waits, fun hreport hlive => ?latePosts, settleEvent_early_waits,
    fun hreport hrear hroom => ?earlyPosts, fun hreport hrear hfull => ?forcedLate⟩, fun e now cause => ?record⟩
  case latePosts =>
    rw [settleEvent_late_posts hreport hlive, post_eq]
    rfl
  case earlyPosts =>
    rw [settleEvent_early_rear hreport hrear, if_pos hroom, postEarly_windows, postEarly_sched, orphan_eq]
    exact ⟨rfl, rfl, rfl, rfl⟩
  case forcedLate =>
    rw [settleEvent_early_rear hreport hrear, if_neg (Nat.not_le.2 hfull)]
    rfl
  case record =>
    refine ⟨rfl, rfl, rfl, fun hreport => ?early, fun hreport => ?late, ?cancelled, ?flushed, ?expired,
      ?applied, ?partly, ?notApplied⟩
    case early =>
      simp only [recordOf, coveredCounts_early hreport, and_self]
    case late =>
      simp only [recordOf, coveredCounts_not_early hreport, OutcomeCounts.plus, and_self]
    case cancelled => rintro rfl; rfl
    case flushed => rintro rfl; rfl
    case expired => rintro rfl; rfl
    case applied => rintro rfl hserved hoverridden; exact endOutcome_normal_applied hserved hoverridden
    case partly => rintro rfl hserved hoverridden; exact endOutcome_normal_partly hserved hoverridden
    case notApplied => rintro rfl hserved; exact endOutcome_normal_notApplied hserved

end Sys2Proof.Machine
end

section
/-! PROOFS. The two readings of a map row that rises strictly (R107, R110): which segment a coefficient or a current falls
in, and what each map gives there. -/

namespace Sys2Proof.Machine

open Sys2Proof

section
variable {row : Nat → Nat} (hrise : ∀ k, k < 11 → row k < row (k + 1))
include hrise

/-! ## The segments of a row -/

theorem row_strictMonoOn : StrictMonoOn row (Set.Iic 11) :=
  strictMonoOn_of_lt_add_one Set.ordConnected_Iic fun k _ _ hk => hrise k hk

theorem row_le_row {j k : Nat} (hjk : j ≤ k) (hk : k ≤ 11) : row j ≤ row k :=
  (row_strictMonoOn hrise).monotoneOn (Set.mem_Iic.2 (hjk.trans hk)) (Set.mem_Iic.2 hk) hjk

omit hrise in
/-- A coefficient inside the row lies in one of its segments: the one that ends at the first point above it. -/
theorem exists_segment {c : Nat} (hfirst : row 0 ≤ c) (hlast : c < row 11) :
    ∃ k, k ≤ 10 ∧ row k ≤ c ∧ c < row (k + 1) := by
  have habove : ∃ n, c < row n := ⟨11, hlast⟩
  have hle : Nat.find habove ≤ 11 := Nat.find_min' habove hlast
  obtain ⟨k, hk⟩ : ∃ k, Nat.find habove = k + 1 :=
    Nat.exists_eq_succ_of_ne_zero fun h0 => absurd (h0 ▸ Nat.find_spec habove) (Nat.not_lt.2 hfirst)
  exact ⟨k, by omega, Nat.not_lt.1 (Nat.find_min habove (by omega)), hk ▸ Nat.find_spec habove⟩

/-- The search finds a coefficient's segment: each segment before it ends at or below the coefficient. -/
theorem mapSegment_eq_some {c k : Nat} (hk : k ≤ 10) (hlow : row k ≤ c) (hhigh : c < row (k + 1)) :
    mapSegment row c = some k := by
  rw [mapSegment, List.find?_range_eq_some]
  refine ⟨by simp [hlow, hhigh], List.mem_range.2 (by omega), fun j hj => ?_⟩
  have hends : row (j + 1) ≤ row k := row_le_row hrise hj (by omega)
  simp [hends.trans hlow]

/-! ## The inverse map (R107) -/

omit hrise in
theorem inverseMap_of_le_first {c : Nat} (h : c ≤ row 0) : inverseMap row c = 0 := by
  rw [inverseMap, if_pos h]

theorem inverseMap_of_last_le {c : Nat} (h : row 11 ≤ c) : inverseMap row c = 1650 := by
  have hspan : row 0 < row 11 := (hrise 0 (by decide)).trans_le (row_le_row hrise (by decide) (by decide))
  rw [inverseMap, if_neg (Nat.not_le.2 (hspan.trans_le h)), if_pos h]

/-- Inside a segment the inverse map interpolates. At R[0] the interpolation gives the 0 of the clause below the row. -/
theorem inverseMap_of_segment {c k : Nat} (hk : k ≤ 10) (hlow : row k ≤ c) (hhigh : c < row (k + 1)) :
    inverseMap row c = 150 * k + ((c - row k) * 150) / (row (k + 1) - row k) := by
  have hlast : c < row 11 := hhigh.trans_le (row_le_row hrise (by omega) (by decide))
  by_cases hfirst : c ≤ row 0
  · obtain rfl : k = 0 := Nat.le_zero.1 <|
      ((row_strictMonoOn hrise).le_iff_le (Set.mem_Iic.2 (by omega)) (Set.mem_Iic.2 (by decide))).1 (hlow.trans hfirst)
    rw [inverseMap_of_le_first hfirst, Nat.sub_eq_zero_of_le hfirst, Nat.zero_mul, Nat.zero_div]
  · rw [inverseMap, if_neg hfirst, if_neg (Nat.not_le.2 hlast), mapSegment_eq_some hrise hk hlow hhigh]

/-- The interpolated part of a segment stays below its 150 mA. -/
theorem inverseMap_segment_bounds {c k : Nat} (hk : k ≤ 10) (hlow : row k ≤ c) (hhigh : c < row (k + 1)) :
    150 * k ≤ inverseMap row c ∧ inverseMap row c ≤ 150 * k + 149 := by
  have hpart : ((c - row k) * 150) / (row (k + 1) - row k) < 150 :=
    Nat.div_lt_of_lt_mul (Nat.mul_lt_mul_of_pos_right (by omega) (by decide))
  rw [inverseMap_of_segment hrise hk hlow hhigh]
  exact ⟨Nat.le_add_right _ _, Nat.add_le_add_left (Nat.le_of_lt_succ hpart) _⟩

theorem inverseMap_le (c : Nat) : inverseMap row c ≤ 1650 := by
  rcases Nat.le_total c (row 0) with hfirst | hfirst
  · simp [inverseMap_of_le_first hfirst]
  · rcases Nat.lt_or_ge c (row 11) with hlast | hlast
    · obtain ⟨k, hk, hlow, hhigh⟩ := exists_segment hfirst hlast
      have := (inverseMap_segment_bounds hrise hk hlow hhigh).2
      omega
    · exact (inverseMap_of_last_le hrise hlast).le

theorem inverseMap_point {k : Nat} (hk : k ≤ 11) : inverseMap row (row k) = 150 * k := by
  rcases Nat.lt_or_eq_of_le hk with hlt | rfl
  · rw [inverseMap_of_segment hrise (by omega) le_rfl (hrise k hlt)]
    simp
  · exact inverseMap_of_last_le hrise le_rfl

/-! ## The forward map (R110) -/

/-- A grid current is the start of a segment, and 1650 mA the end of the last. -/
theorem forwardMap_grid {k : Nat} (hk : k ≤ 11) : forwardMap row (150 * k) = row k := by
  rcases Nat.lt_or_eq_of_le hk with hlt | rfl
  · have hseg : min k 10 = k := by omega
    simp [forwardMap, hseg]
  · have hend : row 10 < row 11 := hrise 10 (by decide)
    simp [forwardMap, hend.le]

omit hrise in
/-- A current of at most 1650 mA is at most 150 mA past the start of its segment, so the forward map stays within it. -/
theorem forwardMap_segment_bounds {i : Nat} (hi : i ≤ 1650)
    (hseg : row (min (i / 150) 10) ≤ row (min (i / 150) 10 + 1)) :
    row (min (i / 150) 10) ≤ forwardMap row i ∧ forwardMap row i ≤ row (min (i / 150) 10 + 1) := by
  have hpast : i - 150 * min (i / 150) 10 ≤ 150 := by omega
  have hpart := Nat.div_le_of_le_mul
    (Nat.mul_le_mul_right (row (min (i / 150) 10 + 1) - row (min (i / 150) 10)) hpast)
  simp only [forwardMap]
  omega

theorem forwardMap_bounds {i : Nat} (hi : i ≤ 1650) : row 0 ≤ forwardMap row i ∧ forwardMap row i ≤ row 11 := by
  have hk : min (i / 150) 10 < 11 := by omega
  obtain ⟨hlow, hhigh⟩ := forwardMap_segment_bounds hi (hrise _ hk).le
  exact ⟨(row_le_row hrise (Nat.zero_le _) hk.le).trans hlow, hhigh.trans (row_le_row hrise hk le_rfl)⟩

end

/-! ## The obligation -/

/-- Settles O11: the clauses of the inverse map by where the coefficient lies in the row, the grid points of both maps,
and the forward map's own equation with its range. -/
theorem mapReadings : Obligations.MapReadings := by
  intro row hrise
  refine ⟨fun c => ⟨inverseMap_of_le_first, inverseMap_of_last_le hrise, fun k hk hlow hhigh => ?segment,
    inverseMap_le hrise c⟩, fun k hk => ⟨inverseMap_point hrise hk, forwardMap_grid hrise hk⟩,
    fun i hi => ⟨rfl, forwardMap_bounds hrise hi⟩⟩
  case segment =>
    exact ⟨inverseMap_of_segment hrise hk hlow hhigh, inverseMap_segment_bounds hrise hk hlow hhigh⟩

end Sys2Proof.Machine
end

section
/-! PROOFS. R149: what ENTER_LIMP performs in each part state, and the transaction around it. -/

namespace Sys2Proof.Machine

open Sys2Proof

/-! ## What is performed, by part state -/

section
variable (h : LinkHeader) {s : State}

theorem performEnterLimp_start (hpart : s.sup.part = .start) : performEnterLimp h s = refuse h .busy s := by
  rw [performEnterLimp, hpart]

theorem performEnterLimp_standby (hpart : s.sup.part = .standby) :
    performEnterLimp h s = refuse h .wrongState s := by
  rw [performEnterLimp, hpart]

/-- From ACTIVE and STOPPING the answer is formed in the state that has entered LIMP. -/
theorem performEnterLimp_enters (hpart : s.sup.part = .active ∨ s.sup.part = .stopping) :
    performEnterLimp h s = answerDone h [] (enterLimp .requested s) := by
  rcases hpart with hpart | hpart <;> rw [performEnterLimp, hpart]

/-- In LIMP the reason joins those held, and there is no second entry. -/
theorem performEnterLimp_limp (hpart : s.sup.part = .limp) :
    performEnterLimp h s = answerDone h [] (reasonAdded .requested s) := by
  rw [performEnterLimp, hpart, addLimpReason_eq]

end

/-! ## The transaction around it -/

/-- Taking a frame leaves the supervisor's block to the request it carries. -/
@[simp] theorem received_sup (k : RequestKind) (h : LinkHeader) (s : State) : (received k h s).sup = s.sup := rfl

theorem reasonAdded_linkKept (r : LimpReason) (s : State) : linkKept s (reasonAdded r s) :=
  ⟨rfl, rfl, rfl, rfl, rfl, rfl, rfl⟩

/-- A reason added while a request is answered is the only change to a block. -/
theorem blocksKept_reasonAdded_received (r : LimpReason) (k : RequestKind) (h : LinkHeader) (s : State) (p : Reply) :
    blocksKept (reasonAdded r s) ((reasonAdded r (received k h s)).setReply p) :=
  ⟨rfl, rfl, rfl, rfl, rfl, rfl, rfl, rfl⟩

/-- An entry to LIMP while a request is answered is the entry from the state the request met. -/
theorem limpEnteredWith_received (r : LimpReason) (k : RequestKind) (h : LinkHeader) (s : State) (p : Reply) :
    limpEnteredWith r s ((enterLimp r (received k h s)).setReply p) :=
  enterLimp_entered r (received k h s)

/-- Settles O36: ENTER_LIMP is a transaction whose part state, untouched by its frame, picks one of two refusals, the
entry to LIMP or the reason added; both changes of state leave the link port to the transaction. -/
theorem enterLimpByPartState : Obligations.EnterLimpByPartState := by
  intro h s hheld hfit
  have hparts : requestParts (.enterLimp h) = some (.enterLimp, h, []) := rfl
  refine ⟨fun hpart => ?start, fun hpart => ?standby, fun hpart => ?enters, fun hpart => ?limp⟩ <;>
    rw [← received_sup .enterLimp h s] at hpart
  case start => exact transact_refuses hparts hheld hfit (performEnterLimp_start h hpart)
  case standby => exact transact_refuses hparts hheld hfit (performEnterLimp_standby h hpart)
  case enters =>
    obtain ⟨r, hrun, hframe, hreply⟩ :=
      transact_done hparts hheld hfit (performEnterLimp_enters h hpart) (enterLimp_linkKept _ _)
    exact ⟨_, hrun, hframe, hreply, limpEnteredWith_received .requested .enterLimp h s r⟩
  case limp =>
    obtain ⟨r, hrun, hframe, hreply⟩ :=
      transact_done hparts hheld hfit (performEnterLimp_limp h hpart) (reasonAdded_linkKept _ _)
    exact ⟨_, hrun, hframe, hreply, blocksKept_reasonAdded_received .requested .enterLimp h s r⟩

end Sys2Proof.Machine
end

section
/-! PROOFS. R158: a select period's bits are those of its whole bytes, then those of an unfinished one. R163: what each
check of a received frame answers once the checks before it have passed. -/

namespace Sys2Proof.Machine

open Sys2Proof

/-! ## Gathering the bits of a select period (R158) -/

theorem byteBits_byteOf (b7 b6 b5 b4 b3 b2 b1 b0 : Bool) :
    byteBits (byteOf b7 b6 b5 b4 b3 b2 b1 b0) = [b7, b6, b5, b4, b3, b2, b1, b0] := by
  revert b7 b6 b5 b4 b3 b2 b1 b0
  decide +kernel

/-- Where at least eight bits are left, the first eight can be taken as a byte. -/
theorem eq_eight_cons {bits : List Bool} (h : 8 ≤ bits.length) :
    ∃ b7 b6 b5 b4 b3 b2 b1 b0 rest, bits = b7 :: b6 :: b5 :: b4 :: b3 :: b2 :: b1 :: b0 :: rest :=
  match bits, h with
  | b7 :: b6 :: b5 :: b4 :: b3 :: b2 :: b1 :: b0 :: rest, _ => ⟨b7, b6, b5, b4, b3, b2, b1, b0, rest, rfl⟩

/-- The bits received are those of the whole bytes, and after them fewer than eight of an unfinished byte. -/
theorem gatherBits_split (bits : List Bool) :
    ∃ tail, bits = bitsOf (gatherBits bits).bytes ++ tail ∧ tail.length = (gatherBits bits).extraBits.val := by
  induction bits using gatherBits.induct with
  | case1 b7 b6 b5 b4 b3 b2 b1 b0 rest ih =>
    obtain ⟨tail, hrest, hlen⟩ := ih
    refine ⟨tail, ?_, hlen⟩
    rw [gatherBits, bitsOf, List.flatMap_cons, byteBits_byteOf, List.append_assoc, ← bitsOf, ← hrest]
    rfl
  | case2 bits hfew =>
    have hlt : bits.length < 8 := by
      by_contra hge
      obtain ⟨b7, b6, b5, b4, b3, b2, b1, b0, rest, hbits⟩ := eq_eight_cons (not_lt.1 hge)
      exact hfew _ _ _ _ _ _ _ _ _ hbits
    rw [gatherBits.eq_2 bits hfew]
    exact ⟨bits, rfl, (Nat.mod_eq_of_lt hlt).symm⟩

/-- No bit of a select period is lost or added. -/
theorem frameBits_gatherBits (bits : List Bool) : frameBits (gatherBits bits) = bits.length := by
  obtain ⟨tail, hbits, hlen⟩ := gatherBits_split bits
  calc frameBits (gatherBits bits)
      = (bitsOf (gatherBits bits).bytes ++ tail).length := by
        rw [List.length_append, bitsOf_length, hlen, frameBits]
    _ = bits.length := by rw [← hbits]

/-- A whole byte holds the eight bits clocked at its place, most significant first. -/
theorem gatherBits_getLsbD {bits : List Bool} {k j : Nat} (hk : k < (gatherBits bits).bytes.length) (hj : j < 8) :
    ((gatherBits bits).bytes.getD k 0).getLsbD (7 - j) = bits.getD (8 * k + j) false := by
  obtain ⟨tail, hbits, -⟩ := gatherBits_split bits
  have hbyte : (8 * k + j) / 8 = k := by omega
  have hplace : (8 * k + j) % 8 = j := by omega
  have hwhole : 8 * k + j < (bitsOf (gatherBits bits).bytes).length := by
    rw [bitsOf_length]
    omega
  calc ((gatherBits bits).bytes.getD k 0).getLsbD (7 - j)
      = (bitsOf (gatherBits bits).bytes).getD (8 * k + j) false := by rw [bitsOf_getD, hbyte, hplace]
    _ = (bitsOf (gatherBits bits).bytes ++ tail).getD (8 * k + j) false :=
        (List.getD_append _ _ _ _ hwhole).symm
    _ = bits.getD (8 * k + j) false := by rw [← hbits]

/-! ## Checks 1 to 3: the frame's length in bits and its kind (R163) -/

theorem kindOfCode_eq_none {b : Byte} (h : b = 0 ∨ 0x13 < b.toNat) : kindOfCode b = none := by
  revert b
  decide +kernel

theorem frameFault_overrun {f : RxFrame} (hlong : 384 < frameBits f) : frameFault f = some .overrun := by
  rw [frameFault, if_pos hlong]

theorem frameFault_unfinished {f : RxFrame} (hbits : frameBits f ≤ 384) (hextra : f.extraBits ≠ 0) :
    frameFault f = some .shortFrame := by
  rw [frameFault, if_neg (not_lt.2 hbits), if_pos (Fin.val_ne_zero_iff.2 hextra)]

section
variable {f : RxFrame} {kind : Byte} {rest : List Byte}
  (hbits : frameBits f ≤ 384) (hextra : f.extraBits = 0) (hbytes : f.bytes = kind :: rest)
include hbits hextra hbytes

theorem frameFault_badKind (hkind : kindOfCode kind = none) : frameFault f = some .badKind := by
  simp only [frameFault, if_neg (not_lt.2 hbits), hextra, hbytes, hkind]
  rfl

/-- The checks after the kind's are made against its payload length. -/
theorem frameFault_eq_bodyFault {k : RequestKind} (hkind : k.code = kind) : frameFault f = bodyFault k f.bytes := by
  have hknown : kindOfCode kind = some k := hkind ▸ kindOfCode_code k
  simp only [frameFault, if_neg (not_lt.2 hbits), hextra, hbytes, hknown]
  rfl

end

/-! ## Checks 4 to 7: the length byte, the record's end and its CRC (R163) -/

section
variable (k : RequestKind) {bytes : List Byte}

/-- Check 4: a frame that ends before its length byte is short. -/
theorem bodyFault_no_length (hshort : bytes.length < 3) : bodyFault k bytes = some .shortFrame :=
  match bytes, hshort with
  | [], _ | [_], _ | [_, _], _ => rfl

variable {k} {first second len : Byte} {tail : List Byte} (hbytes : bytes = first :: second :: len :: tail)
include hbytes

theorem bodyFault_badLength (hlen : len.toNat ≠ k.payload) : bodyFault k bytes = some .badLength := by
  subst hbytes
  exact if_pos hlen

theorem bodyFault_short (hlen : len.toNat = k.payload) (hshort : bytes.length < k.payload + 5) :
    bodyFault k bytes = some .shortFrame := by
  subst hbytes
  rw [bodyFault, if_neg (not_not.2 hlen), if_pos hshort]

/-- Check 7, the last: the CRC received against the CRC over the record before it. -/
theorem bodyFault_whole (hlen : len.toNat = k.payload) (hwhole : k.payload + 5 ≤ bytes.length) :
    bodyFault k bytes =
      if half (crc16 (bytes.take (k.payload + 3))) ≠ (bytes.drop (k.payload + 3)).take 2 then some .crc else none := by
  subst hbytes
  rw [bodyFault, if_neg (not_not.2 hlen), if_neg (not_lt.2 hwhole)]

end

/-- Settles O47: the bits split into whole bytes and a rest, and each fault is the answer of its check after the checks
before it have passed. -/
theorem frameChecksInOrder : Obligations.FrameChecksInOrder := by
  refine ⟨fun bits => ?gathered, fun f => ⟨frameFault_overrun, frameFault_unfinished, ?checked⟩⟩
  case gathered =>
    have hcount := frameBits_gatherBits bits
    have hextra := (gatherBits bits).extraBits.isLt
    have hdigits : frameBits (gatherBits bits) =
      8 * (gatherBits bits).bytes.length + (gatherBits bits).extraBits.val := rfl
    exact ⟨hcount, by omega, by omega, fun k j => gatherBits_getLsbD⟩
  case checked =>
    intro hbits hextra kind rest hbytes
    refine ⟨fun hcode => frameFault_badKind hbits hextra hbytes (kindOfCode_eq_none hcode), fun k hkind => ?_⟩
    rw [frameFault_eq_bodyFault hbits hextra hbytes hkind]
    refine ⟨bodyFault_no_length k, fun second len tail hrest => ?_⟩
    have hform : f.bytes = kind :: second :: len :: tail := by rw [hbytes, hrest]
    refine ⟨bodyFault_badLength hform, bodyFault_short hform, fun hlen hwhole => ?_⟩
    rw [bodyFault_whole hform hlen hwhole]
    exact ⟨fun hcrc => if_pos hcrc, fun hcrc => if_neg (not_not.2 hcrc)⟩

end Sys2Proof.Machine
end

section
/-! PROOFS. What a step can do, said once: every step is a sequence of the changes of `Change`, each with what the step
knows where it makes it. A law that each of these changes keeps is a law that every step keeps. -/

namespace Sys2Proof.Machine

open Sys2Proof

/-! ## The changes -/

/-- Every driving stage goes to OFF with DRVEN low (R122, R123). -/
def dropDrives (s : State) : State := { s with drven := false, drive := s.drive.map driveDropped }

/-- One change that a step makes to the part. -/
inductive Change : State → State → Prop
  /-- The link port, the mode selector, the SDO record and the queue; the silence count is kept or stays in its range. -/
  | port (s : State) (l : LinkPort) (m : ModeSelector) (o : List Bool) (p : List Instr)
      (hl : l.silence = s.link.silence ∨ l.silence ≤ silenceLimit) :
      Change s { s with link := l, modes := m, sdo := o, pending := p }
  /-- The restart cause and the latched notices. -/
  | notices (s : State) (cause : RestartCause) (e r l f : Bool) :
      Change s { s with
        sup := { s.sup with restartCause := cause, linkErr := e, restarted := r, limpEntered := l, faultNew := f } }
  | released (s : State) : Change s { s with held := false }
  | pinWhileHeld (s : State) (level : Bool) (hheld : s.held = true) : Change s { s with drven := level }
  | reset (s : State) (cause : RestartCause) (held : Bool) : Change s (resetBlocks cause { s with held := held })
  | loadEnd (s : State) (hheld : s.held = false) (hpart : s.sup.part = .start) : Change s (loadEnd s)
  | cornerPeriod (s : State) (c : Corner) (a : BitVec 12) (hpart : s.sup.part ≠ .start) : Change s (cornerPeriod c a s)
  | stage (s : State) (c : Corner) (current : Nat) : Change s (s.setDrive c (periodStage c current s))
  | travel (s : State) : Change s (travelStep s)
  | bodyAge (s : State) : Change s (ageTick s)
  | body (s : State) (b : BodyFields) : Change s (s.setMotion (acceptedMotion b))
  | flush (s : State) (hpart : s.sup.part = .active) : Change s (flush s)
  | admitted (s : State) (e : EventFields) (t : TakenEvent) (hcheck : admissionCheck s e = .ok t) : Change s (admitEvent s t)
  | cancel (s : State) (e : Event) (he : e ∈ s.sched.events) : Change s (cancel e s)
  | collect (s : State) (n : Nat) : Change s (s.setSched { s.sched with completions := s.sched.completions.drop n })
  | options (s : State) (o : PerCorner OptionFields) :
      Change s { s with arb := PerCorner.build fun c => setOptions (o.get c) (s.arb.get c) }
  | clearFaults (s : State) (corners : Byte) : Change s (clearNamed corners s)
  | standby (s : State) (hheld : s.held = false) (hpart : s.sup.part = .stopping ∨ s.sup.part = .limp) :
      Change s (enterStandby s)
  | limp (s : State) (r : LimpReason) (hheld : s.held = false) (hpart : s.sup.part = .active ∨ s.sup.part = .stopping) :
      Change s (enterLimp r s)
  | reason (s : State) (r : LimpReason) (hpart : s.sup.part = .limp) : Change s (s.addLimpReason r)
  | stopping (s : State) (hheld : s.held = false) (hpart : s.sup.part = .active) : Change s (enterStopping s)
  | stoppingMs (s : State) (n : Nat) (htimer : s.sup.stoppingTimer = some n) (hn : n + 1 < stoppingLimit) :
      Change s (s.setSup { s.sup with stoppingTimer := some (n + 1) })
  | active (s : State) (hheld : s.held = false) (hpart : s.sup.part = .standby) (hvalid : s.cal.imageState = .valid)
      (hstore : s.cal.store ≠ .busy) (hdrven : s.drven = true) : Change s (enterActive s)
  | returned (s : State) (hheld : s.held = false) (hpart : s.sup.part = .stopping) : Change s (returnActive s)
  | resumed (s : State) (hheld : s.held = false) (hpart : s.sup.part = .limp) (hdrven : s.drven = true) :
      Change s (resumeActive s)
  | drvenFall (s : State) (hactive : s.sup.part ≠ .active) (hstopping : s.sup.part ≠ .stopping) :
      Change s (dropDrives s)
  | drvenRise (s : State) : Change s { s with drven := true, drive := PerCorner.build (stageRise s) }
  | beginDownload (s : State) (data : Vector Byte 32) (hpart : s.sup.part = .standby) (hstore : s.cal.store ≠ .busy) :
      Change s (beginDownload data s)
  | acceptSegment (s : State) (index : Nat) (data : Vector Byte 32) (hpart : s.sup.part = .standby)
      (hstore : s.cal.store ≠ .busy) (hdownload : s.cal.download = .receiving) (hindex : index = s.cal.expected)
      (hlast : index < 9) : Change s (acceptSegment index data s)
  | finishDownload (s : State) (data : Vector Byte 32) (hpart : s.sup.part = .standby) (hstore : s.cal.store ≠ .busy) :
      Change s (finishDownload 9 data s)
  | abortDownload (s : State) (hpart : s.sup.part = .standby) (hstore : s.cal.store ≠ .busy) :
      Change s (abortDownload s)
  | beginStore (s : State) (hpart : s.sup.part = .standby) (hvalid : s.cal.imageState = .valid) :
      Change s (beginStore s)
  | storeEnd (s : State) (cells : List (Nat × Byte)) : Change s (storeEnd cells s)

/-- Changes one after the other. -/
abbrev Changes : State → State → Prop := Relation.ReflTransGen Change

theorem Change.one {s t : State} (h : Change s t) : Changes s t := Relation.ReflTransGen.single h

/-! ## Changes of the port and the notices -/

theorem setReply_changes (s : State) (r : Reply) : Changes s (s.setReply r) :=
  (Change.port s { s.link with reply := r } s.modes s.sdo s.pending (.inl rfl)).one

theorem transacted_changes (n : Nat) (s : State) : Changes s (transacted n s) :=
  (Change.port s (transacted n s).link s.modes (shownBits s n) s.pending (.inl rfl)).one

theorem received_changes (k : RequestKind) (h : LinkHeader) (s : State) : Changes s (received k h s) :=
  (transacted_changes _ s).tail (Change.port _ (received k h s).link _ _ _ (.inr (Nat.zero_le _)))

theorem letPass_changes (r : ReceiveState) (s : State) : Changes s (letPass r s) :=
  (Change.port s { s.link with receive := r } s.modes [] s.pending (.inl rfl)).one

theorem rejectFrame_changes (cause : LinkCause) (seq : BitVec 4) (s : State) : Changes s (rejectFrame cause seq s) :=
  ((Change.notices s s.sup.restartCause true s.sup.restarted s.sup.limpEntered s.sup.faultNew).one).tail
    (Change.port _ (rejectFrame cause seq s).link s.modes s.sdo s.pending (.inl rfl))

theorem noteFaultRise_changes (before after : State) : Changes after (noteFaultRise before after) := by
  rw [noteFaultRise_eq]
  exact (Change.notices after _ _ _ _ _).one

/-! ## Requests -/

/-- On a part that runs, the owner of a request makes changes of `Change` alone. -/
def PerformsChanges (perform : State → Performed) : Prop := ∀ s, s.held = false → Changes s (perform s).state

theorem answerDone_changes (h : LinkHeader) (payload : List Byte) : PerformsChanges (answerDone h payload) :=
  fun _ _ => .refl

theorem performStatus_changes (h : LinkHeader) : PerformsChanges (performStatus h) := fun s _ =>
  ((Change.notices s s.sup.restartCause false false false false).one).tail
    (Change.port _ { s.link with errorLatch := false } s.modes s.sdo s.pending (.inl rfl))

theorem performIdent_changes (h : LinkHeader) : PerformsChanges (performIdent h) := fun _ _ => .refl

theorem acceptBody_changes (b : BodyFields) (s : State) : Changes s (acceptBody b s) := by
  unfold acceptBody
  split
  case isTrue hflush => exact ((Change.body s b).one).tail (.flush _ hflush.2)
  case isFalse => exact (Change.body s b).one

theorem performBodyState_changes (h : LinkHeader) (b : BodyFields) : PerformsChanges (performBodyState h b) := by
  intro s _
  unfold performBodyState
  split
  case isTrue => exact .refl
  case isFalse => exact acceptBody_changes b s

theorem performPreviewEvent_changes (h : LinkHeader) (e : EventFields) : PerformsChanges (performPreviewEvent h e) := by
  intro s _
  unfold performPreviewEvent
  split
  case h_1 => exact .refl
  case h_2 t hcheck => exact (Change.admitted s e t hcheck).one

theorem performCancelEvent_changes (h : LinkHeader) (tag : Byte) : PerformsChanges (performCancelEvent h tag) := by
  intro s _
  unfold performCancelEvent
  repeat' split
  case h_1 e hfound => exact (Change.cancel s e (List.mem_of_find?_eq_some hfound)).one
  all_goals exact .refl

theorem performFlushPreview_changes (h : LinkHeader) : PerformsChanges (performFlushPreview h) := by
  intro s _
  unfold performFlushPreview
  split
  case h_5 hpart => exact (Change.flush s hpart).one
  all_goals exact .refl

theorem performCollect_changes (h : LinkHeader) (count : Byte) : PerformsChanges (performCollect h count) := by
  intro s _
  unfold performCollect
  split
  case isTrue => exact .refl
  case isFalse => exact (Change.collect s (collectCount count)).one

theorem applyOptions_changes (o : PerCorner OptionFields) (s : State) : Changes s (applyOptions o s) :=
  ((Change.options s o).one).trans (noteFaultRise_changes s _)

theorem performCornerOptions_changes (h : LinkHeader) (o : PerCorner OptionFields) :
    PerformsChanges (performCornerOptions h o) := by
  intro s _
  unfold performCornerOptions
  split
  case h_4 | h_5 => exact applyOptions_changes o s
  all_goals exact .refl

theorem performReadCorner_changes (h : LinkHeader) (number : Byte) : PerformsChanges (performReadCorner h number) := by
  intro s _
  unfold performReadCorner
  repeat' split
  all_goals exact .refl

theorem performClearFaults_changes (h : LinkHeader) (corners : Byte) :
    PerformsChanges (performClearFaults h corners) := by
  intro s _
  unfold performClearFaults
  repeat' split
  case h_4.isTrue | h_5.isTrue => exact (Change.clearFaults s corners).one
  all_goals exact .refl

theorem performGoActive_changes (h : LinkHeader) : PerformsChanges (performGoActive h) := by
  intro s hheld
  unfold performGoActive
  repeat' split
  case h_4 hpart => exact (Change.returned s hheld hpart).one
  case isFalse.isFalse.isFalse hpart hvalid hstore hdrven =>
    exact (Change.active s hheld hpart (by simpa [State.imageValid] using hvalid) hstore (by simpa using hdrven)).one
  all_goals exact .refl

theorem performGoStandby_changes (h : LinkHeader) : PerformsChanges (performGoStandby h) := by
  intro s hheld
  unfold performGoStandby
  split
  case h_4 hpart => exact (Change.stopping s hheld hpart).one
  case h_5 hpart => exact (Change.standby s hheld (.inr hpart)).one
  all_goals exact .refl

theorem performEnterLimp_changes (h : LinkHeader) : PerformsChanges (performEnterLimp h) := by
  intro s hheld
  unfold performEnterLimp
  split
  case h_3 hpart => exact (Change.limp s .requested hheld (.inl hpart)).one
  case h_4 hpart => exact (Change.limp s .requested hheld (.inr hpart)).one
  case h_5 hpart => exact (Change.reason s .requested hpart).one
  all_goals exact .refl

theorem performResume_changes (h : LinkHeader) : PerformsChanges (performResume h) := by
  intro s hheld
  unfold performResume
  repeat' split
  case isFalse hpart hready =>
    exact (Change.resumed s hheld hpart (by simpa using (not_or.1 hready).1)).one
  all_goals exact .refl

theorem segmentRuling_accept {k : CalStore} {index : Nat} {start finish : Bool}
    (h : segmentRuling k index start finish = .accept) : k.download = .receiving ∧ index = k.expected := by
  unfold segmentRuling at h
  repeat' split at h
  case h_3.isTrue hdownload hindex => exact ⟨hdownload, hindex.1⟩
  all_goals cases h

theorem takeSegment_changes {h : LinkHeader} {index flags : Byte} {data : Vector Byte 32} {s : State}
    (hpart : s.sup.part = .standby) (hstore : s.cal.store ≠ .busy) (hindex : index.toNat < 10) :
    Changes s (takeSegment h index flags data s).state := by
  unfold takeSegment
  split
  case h_1 => exact (Change.beginDownload s data hpart hstore).one
  case h_2 hruling =>
    split
    case isTrue => exact (Change.finishDownload s data hpart hstore).one
    case isFalse hlast =>
      obtain ⟨hdownload, hexpected⟩ := segmentRuling_accept hruling
      exact (Change.acceptSegment s _ data hpart hstore hdownload hexpected (by omega)).one
  case h_3 => exact (Change.abortDownload s hpart hstore).one
  case h_4 => exact .refl

theorem performCalSegment_changes (h : LinkHeader) (index flags : Byte) (data : Vector Byte 32) :
    PerformsChanges (performCalSegment h index flags data) := by
  intro s _
  unfold performCalSegment
  repeat' split
  case isFalse.isFalse hpart hstore hindex => exact takeSegment_changes hpart hstore (not_le.1 hindex)
  all_goals exact .refl

theorem performCalRead_changes (h : LinkHeader) (index : Byte) : PerformsChanges (performCalRead h index) := by
  intro s _
  unfold performCalRead
  repeat' split
  all_goals exact .refl

theorem performCalStore_changes (h : LinkHeader) : PerformsChanges (performCalStore h) := by
  intro s _
  unfold performCalStore
  repeat' split
  case isFalse.isFalse hpart _ hvalid =>
    exact (Change.beginStore s hpart (by simpa [State.imageValid] using hvalid)).one
  all_goals exact .refl

theorem performRestart_changes : PerformsChanges performRestart := fun s _ =>
  (Change.reset s .requested s.held).one

/-- A transaction around a request's changes. -/
theorem transact_changes {i : Instr} {k : RequestKind} {h : LinkHeader} {payload : List Byte} {s t : State}
    {perform : State → Performed} (hparts : requestParts i = some (k, h, payload)) (hperform : PerformsChanges perform)
    (hrun : transact i h perform s = .next t) : Changes s t := by
  cases hheld : s.held
  case true =>
    rw [transact_held perform hheld] at hrun
    cases hrun
    exact letPass_changes .idle s
  case false =>
    rw [transact_eq perform hparts hheld] at hrun
    split at hrun <;> cases hrun
    case isTrue =>
      exact ((received_changes k h s).trans (hperform (received k h s) hheld)).trans (setReply_changes _ _)
    case isFalse => exact (transacted_changes _ s).trans (rejectFrame_changes _ _ _)

theorem execInvalidFrame_changes {f : SelectPeriod} {s t : State} (hrun : execInvalidFrame f s = .next t) :
    Changes s t := by
  unfold execInvalidFrame at hrun
  split at hrun
  case h_1 bits =>
    split at hrun <;> cases hrun
    case isTrue => exact .refl
    case isFalse =>
      unfold selectPart
      split
      case isTrue => exact letPass_changes _ s
      case isFalse =>
        by_cases hbits : bits = []
        · subst hbits
          rw [selectPeriod_nil]
          exact transacted_changes 0 s
        · rw [selectPeriod_eq _ s hbits]
          split
          case h_1 => exact (transacted_changes _ s).trans (rejectFrame_changes _ _ _)
          case h_2 => exact transacted_changes _ s
  case h_2 bits =>
    cases hrun
    split
    case isTrue => exact letPass_changes _ s
    case isFalse =>
      rw [clockIn_eq]
      exact (Change.port s { s.link with receive := .selected bits, txPos := positionAfter bits.length } s.modes
        (shownBits s bits.length) s.pending (.inl rfl)).one

/-! ## Timers, pins and supply -/

/-- A row of a timer makes the changes of its step, and none on a part held in reset. -/
theorem whenRunning_changes {f : State → State} {s t : State} (hrun : whenRunning f s = .next t)
    (hf : ∀ s : State, s.held = false → Changes s (f s)) : Changes s t := by
  cases hheld : s.held
  case true =>
    rw [whenRunning_held hheld] at hrun
    cases hrun
    exact .refl
  case false =>
    rw [whenRunning_running hheld] at hrun
    cases hrun
    exact hf s hheld

theorem whenOccurs_changes {occasion : State → Bool} {f : State → State} {s t : State}
    (hrun : whenOccurs occasion f s = .next t)
    (hf : ∀ s : State, s.held = false → occasion s = true → Changes s (f s)) : Changes s t := by
  refine whenRunning_changes hrun fun u hu => ?_
  split
  case isTrue hoccasion => exact hf u hu hoccasion
  case isFalse => exact .refl

theorem supplyReset_changes (cause : RestartCause) (held : Bool) (s : State) :
    Changes s (supplyReset cause { s with held := held }) := by
  rw [supplyReset_eq]
  exact ((Change.reset s cause held).one).tail (Change.port _ _ _ _ _ (.inl rfl))

theorem brownout_changes (s : State) : Changes s (brownout s) := by
  unfold brownout
  split
  case isTrue => exact .refl
  case isFalse => exact supplyReset_changes .brownout true s

theorem release_changes (s : State) : Changes s (release s) := by
  unfold release
  split
  case isTrue =>
    exact (((Change.released s).one).tail
      (.notices _ .brownout s.sup.linkErr s.sup.restarted s.sup.limpEntered s.sup.faultNew)).tail
      (.port _ _ s.modes s.sdo s.pending (.inl rfl))
  case isFalse => exact .refl

theorem endStoppingAtRest_changes {s : State} (hheld : s.held = false) : Changes s (endStoppingAtRest s) := by
  rcases endStoppingAtRest_eq s with ⟨hpart, -, heq⟩ | ⟨-, heq⟩
  · rw [heq]
    exact (Change.standby s hheld (.inl hpart)).one
  · rw [heq]

theorem noteFaultRise_held (before after : State) : (noteFaultRise before after).held = after.held := by
  rw [noteFaultRise_eq]

theorem controlPeriod_changes (c : Corner) (a : BitVec 12) {s : State} (hheld : s.held = false) :
    Changes s (controlPeriod c a s) := by
  by_cases hpart : s.sup.part = .start
  · rw [controlPeriod, if_pos hpart]
  · rw [controlPeriod_eq hpart]
    have hheld' : (noteFaultRise s (cornerPeriod c a s)).held = false := by rw [noteFaultRise_held]; exact hheld
    exact (((Change.cornerPeriod s c a hpart).one).trans (noteFaultRise_changes s _)).trans
      (endStoppingAtRest_changes hheld')

theorem takeLimpCause_changes (r : LimpReason) {s : State} (hheld : s.held = false) : Changes s (takeLimpCause r s) := by
  unfold takeLimpCause
  split
  case h_1 hpart => exact (Change.limp s r hheld (.inl hpart)).one
  case h_2 hpart => exact (Change.reason s r hpart).one
  all_goals exact .refl

theorem drivePeriod_changes (c : Corner) (current : Nat) {s : State} (hheld : s.held = false) :
    Changes s (drivePeriod c current s) := by
  have hstage : Changes s (stageStep c current s) :=
    ((Change.stage s c current).one).trans (noteFaultRise_changes s _)
  have hheld' : (stageStep c current s).held = false := by rw [stageStep, noteFaultRise_held]; exact hheld
  rw [drivePeriod_eq]
  split
  case isTrue => exact hstage.trans (takeLimpCause_changes .cornerFault hheld')
  case isFalse => exact hstage

theorem silenceTick_changes {s : State} (hheld : s.held = false) : Changes s (silenceTick s) := by
  have hcount : Changes s { s with link := { s.link with silence := min silenceLimit (s.link.silence + 1) } } :=
    (Change.port s _ s.modes s.sdo s.pending (.inr (Nat.min_le_left _ _))).one
  unfold silenceTick
  split
  case isTrue => exact hcount.trans (takeLimpCause_changes .linkLost hheld)
  case isFalse => exact hcount

theorem stoppingTick_changes (s : State) : Changes s (stoppingTick s) := by
  unfold stoppingTick
  repeat' split
  case h_2.isFalse.isTrue n htimer _ hn => exact (Change.stoppingMs s n htimer hn).one
  case h_2.isFalse.isFalse.isTrue hheld _ hpart => exact (Change.standby s (by simpa using hheld) (.inl hpart)).one
  all_goals exact .refl

/-- At a fall of DRVEN the supervisor can act first: it leaves the drive states alone but for the ones it drops too
(R150: the two orders end alike). -/
theorem supervisorFall_dropDrives (s : State) : supervisorFall (dropDrives s) = dropDrives (supervisorFall s) := by
  have htwice : ∀ d : Drive, { driveDropped (driveDropped d) with latch := 0 } = driveDropped { driveDropped d with latch := 0 } := by
    intro d
    cases hd : d.state <;> simp [driveDropped, hd]
  have hlatch : ∀ (d : Drive) (n : Nat), { driveDropped d with latch := n } = driveDropped { d with latch := n } := by
    intro d n
    cases hd : d.state <;> simp [driveDropped, hd]
  unfold supervisorFall
  cases hpart : s.sup.part <;> simp only [dropDrives, hpart]
  case active => simp [enterLimp, flush, hlatch, PerCorner.map, PerCorner.build, PerCorner.get]
  case stopping => simp [enterStandby, htwice, PerCorner.map]
  case limp => rfl

theorem supervisorFall_changes {s : State} (hheld : s.held = false) : Changes s (supervisorFall s) := by
  unfold supervisorFall
  split
  case h_1 hpart => exact (Change.limp s .enaLow hheld (.inl hpart)).one
  case h_2 hpart => exact (Change.standby s hheld (.inl hpart)).one
  case h_3 hpart => exact (Change.reason s .enaLow hpart).one
  all_goals exact .refl

/-- After a fall the part neither is ACTIVE nor STOPPING. -/
theorem supervisorFall_part (s : State) :
    (supervisorFall s).sup.part ≠ .active ∧ (supervisorFall s).sup.part ≠ .stopping := by
  unfold supervisorFall
  cases hpart : s.sup.part <;> simp [hpart, enterLimp, enterStandby]

theorem takeDrvenFall_changes (s : State) : Changes s (takeDrvenFall s) := by
  unfold takeDrvenFall
  repeat' split
  case isTrue hheld => exact (Change.pinWhileHeld s false hheld).one
  case isFalse.isTrue hheld _ =>
    have hfall : supervisorFall { s with drven := false, drive := s.drive.map driveDropped } =
        dropDrives (supervisorFall s) := supervisorFall_dropDrives s
    obtain ⟨hactive, hstopping⟩ := supervisorFall_part s
    rw [hfall]
    exact (supervisorFall_changes (by simpa using hheld)).tail (.drvenFall _ hactive hstopping)
  case isFalse.isFalse => exact .refl

theorem takeDrvenRise_changes (s : State) : Changes s (takeDrvenRise s) := by
  unfold takeDrvenRise
  repeat' split
  case isTrue hheld => exact (Change.pinWhileHeld s true hheld).one
  case isFalse.isTrue => exact .refl
  case isFalse.isFalse => exact (Change.drvenRise s).one

/-! ## Every command and every step -/

theorem exec_changes {i : Instr} {s t : State} (hrun : exec i s = .next t) : Changes s t := by
  cases i
  case powerOnReset => cases hrun; exact supplyReset_changes .power false s
  case brownoutReset => cases hrun; exact brownout_changes s
  case startLoadEnd =>
    exact whenOccurs_changes hrun fun u hu h => (Change.loadEnd u hu (by simpa [loading] using h)).one
  case controlPeriod c a => exact whenRunning_changes hrun fun _ => controlPeriod_changes c a
  case sensorFaultSet c a | sensorFaultClear c a =>
    exact whenOccurs_changes hrun fun _ hu _ => controlPeriod_changes c a hu
  case bodyAgeTick => exact whenRunning_changes hrun fun u _ => (Change.bodyAge u).one
  case travelStep => exact whenRunning_changes hrun fun u _ => (Change.travel u).one
  case eventAgeExpiry | orphanAgeExpiry => exact whenOccurs_changes hrun fun u _ _ => (Change.travel u).one
  case drivePeriod c current => exact whenRunning_changes hrun fun _ => drivePeriod_changes c current
  case openCoilDetected c current | retryTimerExpiry c current | cleanRunExpiry c current | regLowSet c current
    | regLowClear c current =>
    simp only [exec, execOpenCoilDetected, execRetryTimerExpiry, execCleanRunExpiry, execRegLowSet, execRegLowClear] at hrun
    exact whenOccurs_changes hrun fun _ hu _ => drivePeriod_changes c current hu
  case drvenFall => cases hrun; exact takeDrvenFall_changes s
  case drvenRise => cases hrun; exact takeDrvenRise_changes s
  case stoppingTimerExpiry =>
    refine whenOccurs_changes hrun fun u hu h => (Change.standby u hu (.inl ?_)).one
    simp only [stoppingRuns, Bool.and_eq_true, beq_iff_eq] at h
    exact h.1
  case silenceTimerTick => exact whenRunning_changes hrun fun _ => silenceTick_changes
  case linkSilenceExpiry => exact whenOccurs_changes hrun fun _ hu _ => silenceTick_changes hu
  case storeEnd cells => exact whenOccurs_changes hrun fun u _ _ => (Change.storeEnd u cells).one
  case invalidFrame f => exact execInvalidFrame_changes hrun
  case vddRecovery => cases hrun; exact release_changes s
  case nop h => exact transact_changes rfl (answerDone_changes h []) hrun
  case status h => exact transact_changes rfl (performStatus_changes h) hrun
  case ident h => exact transact_changes rfl (performIdent_changes h) hrun
  case bodyState h b => exact transact_changes rfl (performBodyState_changes h b) hrun
  case previewEvent h e => exact transact_changes rfl (performPreviewEvent_changes h e) hrun
  case cancelEvent h tag => exact transact_changes rfl (performCancelEvent_changes h tag) hrun
  case flushPreview h => exact transact_changes rfl (performFlushPreview_changes h) hrun
  case collect h count => exact transact_changes rfl (performCollect_changes h count) hrun
  case cornerOptions h o => exact transact_changes rfl (performCornerOptions_changes h o) hrun
  case readCorner h number => exact transact_changes rfl (performReadCorner_changes h number) hrun
  case clearFaults h corners => exact transact_changes rfl (performClearFaults_changes h corners) hrun
  case goActive h => exact transact_changes rfl (performGoActive_changes h) hrun
  case goStandby h => exact transact_changes rfl (performGoStandby_changes h) hrun
  case enterLimp h => exact transact_changes rfl (performEnterLimp_changes h) hrun
  case resume h => exact transact_changes rfl (performResume_changes h) hrun
  case calSegment h index flags data => exact transact_changes rfl (performCalSegment_changes h index flags data) hrun
  case calRead h index => exact transact_changes rfl (performCalRead_changes h index) hrun
  case calStore h => exact transact_changes rfl (performCalStore_changes h) hrun
  case restart h => exact transact_changes rfl performRestart_changes hrun

/-- Every step is a sequence of changes. -/
theorem step_changes {s t : State} (hrun : step s = .next t) : Changes s t := by
  unfold step at hrun
  split at hrun
  case h_1 =>
    cases hrun
    exact stoppingTick_changes s
  case h_2 i rest _ =>
    have hpop : Changes s { s with pending := rest } :=
      (Change.port s s.link s.modes s.sdo rest (.inl rfl)).one
    exact hpop.trans (exec_changes hrun)

/-- A law that every change keeps is a law that every step keeps. -/
theorem step_keeps {P : State → Prop} (hkeep : ∀ s t, Change s t → P s → P t) {s t : State}
    (hrun : step s = .next t) (hs : P s) : P t := by
  have hchanges := step_changes hrun
  clear hrun
  induction hchanges with
  | refl => exact hs
  | tail _ hchange ih => exact hkeep _ _ hchange ih

end Sys2Proof.Machine
end

section
/-! PROOFS. The laws of the part state, the supervisor's own fields, the images and the download (R113, R120, R145, R147,
R153, R170 to R177), kept by every change. -/

namespace Sys2Proof.Machine

open Sys2Proof

/-! ## The frame of a travel step -/

theorem settleEvent_frame (s : State) (e : Event) :
    settleEvent s e = { s with sched := (settleEvent s e).sched, arb := (settleEvent s e).arb } := by
  unfold settleEvent
  repeat' split
  all_goals rfl

theorem settleEvents_frame (es : List Event) (s : State) :
    es.foldl settleEvent s = { s with
      sched := (es.foldl settleEvent s).sched, arb := (es.foldl settleEvent s).arb } := by
  induction es generalizing s with
  | nil => rfl
  | cons e rest ih => rw [List.foldl_cons, ih, settleEvent_frame s e]

/-- A travel step changes the scheduler and the arbiters alone. -/
theorem travelStep_frame (s : State) :
    travelStep s = { s with sched := (travelStep s).sched, arb := (travelStep s).arb } := by
  rw [travelStep, expiryStage_moveStage, settleStage, settleEvents_frame]
  rfl

@[simp] theorem travelStep_acq (s : State) : (travelStep s).acq = s.acq := by rw [travelStep_frame]
@[simp] theorem travelStep_law (s : State) : (travelStep s).law = s.law := by rw [travelStep_frame]
@[simp] theorem travelStep_drive (s : State) : (travelStep s).drive = s.drive := by rw [travelStep_frame]
@[simp] theorem travelStep_motion (s : State) : (travelStep s).motion = s.motion := by rw [travelStep_frame]
@[simp] theorem travelStep_sup (s : State) : (travelStep s).sup = s.sup := by rw [travelStep_frame]
@[simp] theorem travelStep_link (s : State) : (travelStep s).link = s.link := by rw [travelStep_frame]
@[simp] theorem travelStep_cal (s : State) : (travelStep s).cal = s.cal := by rw [travelStep_frame]
@[simp] theorem travelStep_held (s : State) : (travelStep s).held = s.held := by rw [travelStep_frame]
@[simp] theorem travelStep_drven (s : State) : (travelStep s).drven = s.drven := by rw [travelStep_frame]

/-! ## The frame of an END segment -/

/-- An END segment changes the calibration store and, where the image becomes VALID, the filters (R5, R174). -/
theorem finishDownload_frame (index : Nat) (data : Vector Byte 32) (s : State) :
    ∃ k q, finishDownload index data s = { s with cal := k, acq := q } ∧ k.store = s.cal.store := by
  rw [finishDownload, setImageState, State.setCal]
  exact ⟨_, _, rfl, rfl⟩

/-! ## The part state against image, DRVEN and store -/

/-- In a part state other than those of a store, no store runs. -/
theorem PartLegal.store_idle {s : State} (h : PartLegal s) (hpart : s.sup.part ≠ .standby) : s.cal.store ≠ .busy :=
  fun hbusy => hpart (h.2.2.2.2 hbusy).1

/-- In STANDBY with no store running the law asks nothing of the image. -/
theorem PartLegal_of_standby {s : State} (hheld : s.held = true → s.sup.part = .start) (hpart : s.sup.part = .standby)
    (hidle : s.cal.store ≠ .busy) : PartLegal s := by
  have hother : ∀ p, p ≠ .standby → s.sup.part ≠ p := fun p hp heq => hp (heq.symm.trans hpart)
  exact ⟨hheld, fun hp => absurd hp (hother _ (by decide)),
    fun hp => absurd hp (not_or.2 ⟨hother _ (by decide), hother _ (by decide)⟩),
    fun hp => absurd hp (hother _ (by decide)), fun hbusy => absurd hbusy hidle⟩

theorem PartLegal_change {s t : State} (hchange : Change s t) (h : PartLegal s) : PartLegal t := by
  obtain ⟨hheld, hstart, hruns, hlimp, hstore⟩ := id h
  cases hchange
  case port | notices | stage | bodyAge | body | flush | admitted | collect | options | clearFaults | cornerPeriod
    | cancel | stoppingMs => exact h
  case travel | reason => simpa [PartLegal] using h
  case released => exact ⟨nofun, hstart, hruns, hlimp, hstore⟩
  case pinWhileHeld hs => simpa [PartLegal, hheld hs] using h
  case reset => simp [PartLegal, resetBlocks, Supervisor.reset, CalStore.reset]
  case loadEnd hs hpart =>
    simp [PartLegal, loadEnd, setImageState, hs, h.store_idle (by simp [hpart])]
  case standby hs hpart =>
    have hidle := h.store_idle (by rcases hpart with hpart | hpart <;> simp [hpart])
    simp [PartLegal, enterStandby, hs, hidle]
  case limp hs hpart =>
    have hidle := h.store_idle (by rcases hpart with hpart | hpart <;> simp [hpart])
    simp [PartLegal, enterLimp, hs, hidle, (hruns hpart).1]
  case stopping hs hpart =>
    simp [PartLegal, enterStopping, hs, h.store_idle (by simp [hpart]), hruns (.inl hpart)]
  case active hs hpart hvalid hidle hdrven => simp [PartLegal, enterActive, hs, hvalid, hidle, hdrven]
  case returned hs hpart =>
    simp [PartLegal, returnActive, hs, h.store_idle (by simp [hpart]), hruns (.inr hpart)]
  case resumed hs hpart hdrven =>
    simp [PartLegal, resumeActive, hs, h.store_idle (by simp [hpart]), hlimp hpart, hdrven]
  case drvenFall hactive hstopping =>
    exact ⟨hheld, hstart, fun hp => absurd hp (not_or.2 ⟨hactive, hstopping⟩), hlimp, hstore⟩
  case drvenRise => exact ⟨hheld, hstart, fun hp => ⟨(hruns hp).1, rfl⟩, hlimp, hstore⟩
  case beginDownload hpart hidle | acceptSegment hpart hidle _ _ _ | abortDownload hpart hidle =>
    exact PartLegal_of_standby hheld hpart hidle
  case finishDownload data hpart hidle =>
    obtain ⟨k, q, heq, hstore⟩ := finishDownload_frame 9 data s
    rw [heq]
    exact PartLegal_of_standby hheld hpart (hstore ▸ hidle)
  case beginStore hpart hvalid => exact ⟨hheld, hstart, hruns, hlimp, fun _ => ⟨hpart, hvalid, rfl⟩⟩
  case storeEnd => exact ⟨hheld, hstart, hruns, hlimp, nofun⟩

/-! ## The supervisor's own fields -/

theorem LimpReasons.has_add_self (set : LimpReasons) (r : LimpReason) : (set.add r).has r = true := by cases r <;> rfl

/-- Adding a reason takes none away. -/
theorem LimpReasons.has_add {set : LimpReasons} {r q : LimpReason} (h : set.has q = true) :
    (set.add r).has q = true := by
  cases r <;> cases q <;> first | exact h | rfl

theorem SupervisorLegal_change {s t : State} (hchange : Change s t) (h : SupervisorLegal s) : SupervisorLegal t := by
  obtain ⟨htimer, hlimit, hfirst, hin, hempty, hsource⟩ := id h
  have hstopped : s.sup.part ≠ .stopping → s.sup.stoppingTimer = none := fun hpart => by
    simpa using mt htimer.1 hpart
  have hnone : s.sup.part ≠ .limp → s.sup.limpFirst = none := fun hpart => by simpa using mt hfirst.1 hpart
  cases hchange
  case port | notices | stage | bodyAge | body | flush | admitted | collect | options | clearFaults | cornerPeriod
    | cancel | released | pinWhileHeld | drvenFall | drvenRise | beginDownload | acceptSegment
    | abortDownload | beginStore | storeEnd => exact h
  case travel => simpa [SupervisorLegal] using h
  case finishDownload data _ _ =>
    obtain ⟨k, q, heq, -⟩ := finishDownload_frame 9 data s
    rw [heq]
    exact h
  case reset cause held =>
    simp [SupervisorLegal, resetBlocks, Supervisor.reset, sourceOf]
  case loadEnd hs hpart =>
    have h1 := hstopped (by simp [hpart])
    have h2 := hnone (by simp [hpart])
    have h3 := hempty (by simp [hpart])
    simp only [hpart, sourceOf] at hsource
    simp [SupervisorLegal, loadEnd, setImageState, h1, h2, h3, hsource, sourceOf]
  case standby => simp [SupervisorLegal, enterStandby, sourceOf]
  case limp r _ _ => simp [SupervisorLegal, enterLimp, sourceOf, LimpReasons.has_add_self]
  case reason r hpart =>
    have hadded := fun q hq => LimpReasons.has_add (r := r) (hin q hq)
    exact ⟨htimer, hlimit, hfirst, hadded, fun hp => absurd hpart hp, hsource⟩
  case stopping hs hpart =>
    have h2 := hnone (by simp [hpart])
    have h3 := hempty (by simp [hpart])
    simp only [hpart, sourceOf] at hsource
    simp [SupervisorLegal, enterStopping, h2, h3, hsource, sourceOf]
  case stoppingMs n hn hlt =>
    have hrun : s.sup.part = .stopping := htimer.1 (by simp [hn])
    have h2 := hnone (by simp [hrun])
    have h3 := hempty (by simp [hrun])
    simp only [hrun, sourceOf] at hsource
    simp only [stoppingLimit] at hlt
    simp [SupervisorLegal, hrun, h2, h3, hsource, sourceOf, hlt]
  case active hs hpart _ _ _ =>
    have h1 := hstopped (by simp [hpart])
    have h2 := hnone (by simp [hpart])
    have h3 := hempty (by simp [hpart])
    simp [SupervisorLegal, enterActive, h1, h2, h3, sourceOf]
  case returned hs hpart =>
    have h2 := hnone (by simp [hpart])
    have h3 := hempty (by simp [hpart])
    simp only [hpart, sourceOf] at hsource
    simp [SupervisorLegal, returnActive, h2, h3, hsource, sourceOf]
  case resumed hs hpart _ =>
    have h1 := hstopped (by simp [hpart])
    simp [SupervisorLegal, resumeActive, h1, sourceOf]

/-- Settles O53: each of the two laws is kept by every change, so by every step. -/
theorem everyStepKeepsPartAndSupervisorLegal : Obligations.EveryStepKeepsPartAndSupervisorLegal :=
  ⟨fun _ _ hs hrun => step_keeps (fun _ _ => PartLegal_change) hrun hs,
    fun _ _ hs hrun => step_keeps (fun _ _ => SupervisorLegal_change) hrun hs⟩

/-! ## The images and the download -/

/-- A START load decides for a VALID image only where validation passes (R171). -/
theorem loadedState_valid {nv : Memory} {mark : Bool} (h : loadedState nv mark = .valid) : validate nv = .pass := by
  unfold loadedState at h
  split at h
  case isTrue hc => simpa using (Bool.and_eq_true_iff.1 hc).2
  case isFalse => cases h

theorem loadedState_ne_receiving (nv : Memory) (mark : Bool) : loadedState nv mark ≠ .receiving := by
  unfold loadedState
  split <;> decide

theorem ImageLegal_change {s t : State} (hchange : Change s t) (hdownload : DownloadLegal s) (h : ImageLegal s) : ImageLegal t := by
  obtain ⟨hworking, hnv, hvalid⟩ := id h
  cases hchange
  case port | notices | stage | bodyAge | body | flush | admitted | collect | options | clearFaults | cornerPeriod
    | cancel | released | pinWhileHeld | drvenFall | drvenRise | standby | limp | reason | stopping | stoppingMs
    | active | returned | resumed | beginStore => exact h
  case travel => simpa [ImageLegal] using h
  case reset cause held =>
    exact ⟨Memory.wf_nil, nvAfterReset_wf (s := { s with held := held }) hnv, by rintro ⟨⟩⟩
  case loadEnd => exact ⟨hnv, hnv, loadedState_valid⟩
  case beginDownload data _ _ => exact ⟨writeSegment_wf data (by decide) hworking, hnv, nofun⟩
  case acceptSegment index data _ _ _ _ hlast =>
    have hwf : (writeSegment index data s.cal).working.wf := writeSegment_wf data (by simp only [segmentCount]; omega) hworking
    have hreceiving : s.cal.imageState = .receiving := hdownload.1.2 ‹_›
    exact ⟨hwf, hnv, fun hv => absurd (hreceiving.symm.trans hv) (by decide)⟩
  case finishDownload data _ _ =>
    refine ⟨writeSegment_wf data (by decide) hworking, hnv, fun hv => ?_⟩
    simp only [finishDownload, setImageState, State.setCal_cal] at hv ⊢
    split at hv
    case isTrue hpass => exact hpass
    case isFalse => cases hv
  case abortDownload => exact ⟨hworking, hnv, nofun⟩
  case storeEnd cells => exact ⟨hworking, writtenImage_wf cells hworking, hvalid⟩

theorem DownloadLegal_change {s t : State} (hchange : Change s t) (hpart : PartLegal s) (h : DownloadLegal s) :
    DownloadLegal t := by
  cases hchange
  case port | notices | stage | bodyAge | body | flush | admitted | collect | options | clearFaults | cornerPeriod
    | cancel | released | pinWhileHeld | drvenFall | drvenRise | standby | limp | reason | stopping | stoppingMs
    | active | returned | resumed | beginStore | storeEnd => exact h
  case travel => simpa [DownloadLegal] using h
  case reset => simp [DownloadLegal, resetBlocks, CalStore.reset]
  case loadEnd _ hstart =>
    have hnot : s.cal.download ≠ .receiving := fun hd =>
      absurd ((hpart.2.1 hstart).symm.trans (h.1.2 hd)) (by decide)
    simp [DownloadLegal, loadEnd, setImageState, loadedState_ne_receiving, hnot]
  case beginDownload => simp [DownloadLegal, beginDownload]
  case acceptSegment index data _ _ hdownload hindex hlast =>
    have hcount := h.2 hdownload
    simp [DownloadLegal, acceptSegment, writeSegment, hdownload, h.1.2 hdownload, hcount.1]
    omega
  case finishDownload =>
    simp only [DownloadLegal, finishDownload, setImageState, State.setCal_cal]
    split <;> simp
  case abortDownload => simp [DownloadLegal, abortDownload]

/-- Settles O54: with the part state legal, the laws of the images and of the download are kept together by every change. -/
theorem everyStepKeepsTheImagesLegal : Obligations.EveryStepKeepsTheImagesLegal := by
  intro s t hs hrun
  exact (step_keeps (P := fun s => PartLegal s ∧ ImageLegal s ∧ DownloadLegal s)
    (fun _ _ hchange ⟨hpart, himage, hdownload⟩ => ⟨PartLegal_change hchange hpart,
      ImageLegal_change hchange hdownload himage, DownloadLegal_change hchange hpart hdownload⟩) hrun hs).2

end Sys2Proof.Machine
end

section
/-! PROOFS. The law of the drive stages (R119 to R123, R125, R129, R139): what each operation of a stage keeps of it, and
that every change keeps it at every corner. -/

namespace Sys2Proof.Machine

open Sys2Proof

/-! ## One stage -/

/-- The law of a stage but for what its most recent period shows. -/
def StageRuns (nRetry : Nat) (d : Drive) : Prop :=
  d.duty ≤ 950 ∧ d.lowRun ≤ 100 ∧ d.inRun ≤ 100 ∧ d.openCount < 50 ∧ d.cleanRun ≤ 10000 ∧ d.retry ≤ nRetry ∧
  (d.state ≠ .regulating →
    d.duty = 0 ∧ d.status = .none ∧ d.lowRun = 0 ∧ d.inRun = 0 ∧ d.openCount = 0 ∧ d.cleanRun = 0) ∧
  (d.state ≠ .overloadWait → d.wait = 0) ∧
  (d.state.driving = false → d.retry = 0)

theorem StageLegal.runs {n : Nat} {d : Drive} (h : StageLegal n d) : StageRuns n d := by
  simp only [StageLegal] at h
  simp only [StageRuns]
  tauto

/-- A period shows what it left, which outside REGULATING is nothing. -/
theorem endPeriod_legal {n : Nat} {d : Drive} (h : StageRuns n d) : StageLegal n (endPeriod d) := by
  obtain ⟨hduty, hlow, hin, hopen, hclean, hretry, hidle, hwait, hnot⟩ := h
  refine ⟨hduty, hlow, hin, hopen, hclean, hretry, hidle, hwait, hnot, hduty, fun hstate => ?_⟩
  have hother : d.state ≠ .regulating := by
    rcases hstate with hs | hs | hs <;> simp only [endPeriod] at hs <;> simp [hs]
  exact ⟨(hidle hother).1, (hidle hother).2.1⟩

/-- A stage that is not driving has no retry count, so the limit does not bear on it. -/
theorem StageLegal.of_not_driving {n m : Nat} {d : Drive} (h : StageLegal n d) (hd : d.state.driving = false) :
    StageLegal m d := by
  obtain ⟨hduty, hlow, hin, hopen, hclean, -, hidle, hwait, hnot, hshown⟩ := h
  exact ⟨hduty, hlow, hin, hopen, hclean, (hnot hd).symm ▸ Nat.zero_le m, hidle, hwait, hnot, hshown⟩

theorem switchedOn_legal {n : Nat} {d : Drive} (hretry : d.retry ≤ n) (hshown : d.shownDuty ≤ 950) :
    StageLegal n (switchedOn d) := by
  simp [StageLegal, switchedOn, DriveState.driving, hretry, hshown]

theorem driveSelected_legal {n : Nat} {d : Drive} (h : StageLegal n d) : StageLegal n (driveSelected d) := by
  rw [driveSelected_eq]
  split
  case isTrue =>
    obtain ⟨-, -, -, -, -, hretry, -, -, -, hshown, -⟩ := h
    exact switchedOn_legal hretry hshown
  case isFalse => exact h

theorem driveDropped_legal {n : Nat} {d : Drive} (h : StageLegal n d) : StageLegal n (driveDropped d) := by
  rw [driveDropped_eq]
  split
  case isTrue =>
    obtain ⟨-, -, -, -, -, -, -, -, -, hshown, -⟩ := h
    simp [StageLegal, switchedOff, hshown]
  case isFalse => exact h

theorem driveDropped_not_driving (d : Drive) : (driveDropped d).state.driving = false := by
  rw [driveDropped_eq]
  split
  case isTrue => rfl
  case isFalse hd => simpa using hd

theorem clearStage_legal {n : Nat} {d : Drive} (selected drven : Bool) (h : StageLegal n d) :
    StageLegal n (clearStage selected drven d) := by
  obtain ⟨hduty, hlow, hin, hopen, hclean, hretry, hidle, hwait, hnot, hshown, hlast⟩ := h
  unfold clearStage
  simp only
  split
  case isTrue hfault =>
    have hstate : d.state = .faultOpen ∨ d.state = .faultShort := by
      cases hs : d.state <;> simp_all [DriveState.isHardFault]
    split
    case isTrue =>
      rw [enterRegulating_eq]
      exact switchedOn_legal hretry hshown
    case isFalse =>
      have hother : d.state ≠ .regulating ∧ d.state ≠ .overloadWait ∧ d.state.driving = false := by
        rcases hstate with hs | hs <;> simp [hs, DriveState.driving]
      obtain ⟨hreg, hover, hdrive⟩ := hother
      simp [StageLegal, DriveState.driving, hidle hreg, hwait hover, hnot hdrive, hshown]
  case isFalse =>
    refine ⟨hduty, Nat.zero_le _, Nat.zero_le _, hopen, hclean, hretry, fun hs => ?_, hwait, hnot, hshown, hlast⟩
    obtain ⟨h1, h2, -, -, h5, h6⟩ := hidle hs
    exact ⟨h1, h2, rfl, rfl, h5, h6⟩

/-- CLEAR_FAULTS starts no stage but a selected one with DRVEN high (R135). -/
theorem clearStage_not_driving {d : Drive} {selected drven : Bool} (hpin : selected = false ∨ drven = false)
    (hd : d.state.driving = false) : (clearStage selected drven d).state.driving = false := by
  have hoff : (selected && drven) = false := by rcases hpin with h | h <;> simp [h]
  unfold clearStage
  simp only [hoff]
  split
  case isTrue => rfl
  case isFalse => exact hd

/-! ## A period of a stage -/

theorem loopDuty_le (kI : Nat) (d : Drive) : loopDuty kI d ≤ 950 := by
  have := clampInt_mem 0 950 (d.duty + (currentError d * kI).tdiv 64) (by decide)
  simp only [loopDuty]
  omega

theorem overcurrentPeriod_runs {n : Nat} {d : Drive} (hwait : d.wait = 0) : StageRuns n (overcurrentPeriod n d) := by
  unfold overcurrentPeriod
  simp only
  split
  case isTrue hretry => simp [StageRuns, DriveState.driving, hretry]
  case isFalse => simp [StageRuns, hwait]

/-- The counts of a period's status stay within their ranges, and nothing else changes but REG_LOW. -/
theorem countStatus_runs {n : Nat} {d : Drive} (hstate : d.state = .regulating) (h : StageRuns n d) :
    StageRuns n (countStatus d) ∧ (countStatus d).state = .regulating := by
  obtain ⟨hduty, hlow, hin, hopen, hclean, hretry, -, hwait, -⟩ := h
  unfold countStatus
  split <;> simp [StageRuns, hstate, DriveState.driving, hduty, hopen, hclean, hretry] <;> exact hwait (by simp [hstate])

theorem countClean_runs {n : Nat} {d : Drive} (hstate : d.state = .regulating) (h : StageRuns n d) :
    StageRuns n (countClean d) := by
  obtain ⟨hduty, hlow, hin, hopen, hclean, hretry, -, hwait, -⟩ := h
  have hret : (if min 10000 (d.cleanRun + 1) = 10000 then 0 else d.retry) ≤ n := by
    split
    · exact Nat.zero_le n
    · exact hretry
  exact ⟨hduty, hlow, hin, hopen, Nat.min_le_left _ _, hret, fun hs => absurd hstate hs, hwait,
    fun hd => absurd hd (by simp [countClean, hstate, DriveState.driving])⟩

theorem openAndClean_runs {n : Nat} {d : Drive} (hstate : d.state = .regulating) (h : StageRuns n d) :
    StageRuns n (openAndClean d) := by
  obtain ⟨hduty, hlow, hin, hopen, hclean, hretry, hidle, hwait, hnot⟩ := id h
  unfold openAndClean
  repeat' split
  case isTrue.isTrue => simp [StageRuns, latchOpen, hwait (by simp [hstate])]
  case isTrue.isFalse hcount =>
    exact countClean_runs hstate ⟨hduty, hlow, hin, not_le.1 hcount, hclean, hretry,
      fun hs => absurd hstate hs, hwait, hnot⟩
  case isFalse =>
    exact countClean_runs hstate ⟨hduty, hlow, hin, by simp, hclean, hretry, fun hs => absurd hstate hs, hwait, hnot⟩

theorem regulate_runs {m : Memory} {d : Drive} (hstate : d.state = .regulating) (h : StageRuns (retryLimit m) d) :
    StageRuns (retryLimit m) (regulate m d) := by
  obtain ⟨-, hlow, hin, hopen, hclean, hretry, -, hwait, hnot⟩ := h
  unfold regulate
  split
  case isTrue => exact overcurrentPeriod_runs (hwait (by simp [hstate]))
  case isFalse =>
    obtain ⟨hcounted, hstill⟩ := countStatus_runs (n := retryLimit m)
      (d := { d with duty := loopDuty (loopGain m) d
                     status := regulationStatus (currentError d) (loopDuty (loopGain m) d) }) hstate
      ⟨loopDuty_le _ _, hlow, hin, hopen, hclean, hretry, fun hs => absurd hstate hs, hwait, hnot⟩
    exact openAndClean_runs hstill hcounted

/-- A drive period keeps the law of its stage. -/
theorem stagePeriod_legal {m : Memory} {d : Drive} (current : Nat) (h : StageLegal (retryLimit m) d) :
    StageLegal (retryLimit m) (stagePeriod m current d) := by
  obtain ⟨hduty, hlow, hin, hopen, hclean, hretry, hidle, hwait, hnot⟩ := h.runs
  refine endPeriod_legal ?_
  unfold periodOutcome
  simp only
  split
  case h_1 hstate =>
    exact regulate_runs hstate ⟨hduty, hlow, hin, hopen, hclean, hretry, hidle, hwait, hnot⟩
  case h_2 hstate =>
    split
    case isTrue =>
      exact regulate_runs rfl (by simp [StageRuns, enterRegulating, DriveState.driving, hretry])
    case isFalse =>
      have hzero := hidle (by simp [hstate])
      simp [StageRuns, hstate, DriveState.driving, hzero, hretry]
  all_goals
    rename_i hstate
    have hzero := hidle (by simp [hstate])
    have hretry0 := hnot (by simp [hstate, DriveState.driving])
    have hwait0 := hwait (by simp [hstate])
    simp [StageRuns, hstate, hzero, hretry0, hwait0]

/-- Only a stage that was driving is driving after a period. -/
theorem stagePeriod_not_driving {m : Memory} {d : Drive} (current : Nat) (hd : d.state.driving = false) :
    (stagePeriod m current d).state.driving = false := by
  cases hs : d.state <;> simp [hs, DriveState.driving] at hd <;> simp [stagePeriod, endPeriod, periodOutcome, hs, DriveState.driving]

/-! ## Every stage -/

/-- The law of a stage as the state bears on it: its limit of retries, and whether it may be driving. -/
def StageFits (s : State) (d : Drive) : Prop :=
  StageLegal (retryLimit s.cal.working) d ∧
    (s.sup.part = .start ∨ s.sup.part = .standby ∨ s.drven = false → d.state.driving = false)

theorem DrivesLegal_iff (s : State) : DrivesLegal s ↔ ∀ c, StageFits s (s.drive.get c) := Iff.rfl

/-- A working image written in START or STANDBY meets stages that are not driving. -/
theorem StageFits.rewritten {s t : State} {d : Drive} (h : StageFits s d)
    (hpart : s.sup.part = .start ∨ s.sup.part = .standby) : StageFits t d := by
  have hd := h.2 (hpart.imp_right .inl)
  exact ⟨h.1.of_not_driving hd, fun _ => hd⟩

theorem reset_stage_legal (n : Nat) : StageLegal n Drive.reset := by
  simp [StageLegal, Drive.reset]

theorem DrivesLegal_change {s t : State} (hchange : Change s t) (hpart : PartLegal s) (hsup : SupervisorLegal s)
    (h : DrivesLegal s) : DrivesLegal t := by
  have hsource := hsup.2.2.2.2.2
  cases hchange
  case port | notices | bodyAge | body | flush | admitted | collect | options | cancel | released | reason | stoppingMs
    | beginStore | storeEnd | abortDownload => exact h
  case travel => simpa [DrivesLegal] using h
  case pinWhileHeld hheld =>
    exact fun c => ⟨(h c).1, fun _ => (h c).2 (.inl (hpart.1 hheld))⟩
  case reset cause held =>
    intro c
    have hget : (resetBlocks cause { s with held := held }).drive.get c = Drive.reset := PerCorner.get_replicate _ c
    rw [hget]
    exact ⟨reset_stage_legal _, fun _ => rfl⟩
  case loadEnd _ hstart => exact fun c => StageFits.rewritten (h c) (.inl hstart)
  case beginDownload hstandby _ | acceptSegment hstandby _ _ _ _ =>
    exact fun c => StageFits.rewritten (h c) (.inr hstandby)
  case finishDownload data hstandby _ =>
    obtain ⟨k, q, heq, -⟩ := finishDownload_frame 9 data s
    rw [heq]
    exact fun c => StageFits.rewritten (h c) (.inr hstandby)
  case cornerPeriod c a _ =>
    intro e
    simp only [cornerPeriod, PerCorner.get_set]
    split
    case isTrue heq => subst heq; exact h e
    case isFalse => exact h e
  case stage c current =>
    intro e
    simp only [State.setDrive_drive, PerCorner.get_set]
    split
    case isTrue heq =>
      subst heq
      exact ⟨stagePeriod_legal current (h e).1, fun hquiet => stagePeriod_not_driving current ((h e).2 hquiet)⟩
    case isFalse => exact h e
  case clearFaults corners =>
    intro c
    simp only [clearNamed, PerCorner.get_build, clearedStage]
    split
    case isTrue =>
      refine ⟨clearStage_legal _ _ (h c).1, fun hquiet => clearStage_not_driving ?_ ((h c).2 hquiet)⟩
      rcases hquiet with hp | hp | hp
      · exact .inl (by rw [hsource c, hp]; rfl)
      · exact .inl (by rw [hsource c, hp]; rfl)
      · exact .inr hp
    case isFalse => exact h c
  case standby =>
    intro c
    simp only [enterStandby, PerCorner.get_map]
    exact ⟨driveDropped_legal (h c).1, fun _ => driveDropped_not_driving _⟩
  case limp r _ hruns =>
    intro c
    simp only [enterLimp, PerCorner.get_build]
    exact ⟨(h c).1, fun hquiet => (h c).2 (.inr (.inr ((hquiet.resolve_left nofun).resolve_left nofun)))⟩
  case stopping =>
    exact fun c => ⟨(h c).1, fun hquiet => (h c).2 (.inr (.inr ((hquiet.resolve_left nofun).resolve_left nofun)))⟩
  case active _ _ _ hdrven =>
    intro c
    simp only [enterActive, PerCorner.get_map]
    refine ⟨driveSelected_legal (h c).1, fun hquiet => absurd hquiet ?_⟩
    simp [hdrven]
  case returned =>
    exact fun c => ⟨(h c).1, fun hquiet => (h c).2 (.inr (.inr ((hquiet.resolve_left nofun).resolve_left nofun)))⟩
  case resumed hdrven =>
    refine fun c => ⟨(h c).1, fun hquiet => absurd hquiet ?_⟩
    simp [resumeActive, hdrven]
  case drvenFall =>
    intro c
    simp only [dropDrives, PerCorner.get_map]
    exact ⟨driveDropped_legal (h c).1, fun _ => driveDropped_not_driving _⟩
  case drvenRise =>
    intro c
    simp only [PerCorner.get_build, stageRise]
    split
    case isTrue hselected =>
      refine ⟨driveSelected_legal (h c).1, fun hquiet => absurd hselected ?_⟩
      rw [hsource c]
      rcases hquiet with hp | hp | hp
      · rw [hp]; decide
      · rw [hp]; decide
      · cases hp
    case isFalse =>
      refine ⟨(h c).1, fun hquiet => (h c).2 ?_⟩
      rcases hquiet with hp | hp | hp
      · exact .inl hp
      · exact .inr (.inl hp)
      · cases hp

/-- Settles O55: with part state and supervisor legal, the law of the stages is kept by every change. -/
theorem everyStepKeepsTheDrivesLegal : Obligations.EveryStepKeepsTheDrivesLegal := by
  intro s t hs hrun
  exact (step_keeps (P := fun s => PartLegal s ∧ SupervisorLegal s ∧ DrivesLegal s)
    (fun _ _ hchange ⟨hpart, hsup, hdrives⟩ => ⟨PartLegal_change hchange hpart, SupervisorLegal_change hchange hsup,
      DrivesLegal_change hchange hpart hsup hdrives⟩) hrun hs).2.2

end Sys2Proof.Machine
end

section
/-! PROOFS. One arbiter: how a window is opened, selected, closed and removed (R74 to R83), that every operation keeps the
structure of R84, and that no window is lost or made by one. -/

namespace Sys2Proof.Machine

open Sys2Proof

/-! ## Opens (R74 to R77) -/

section
variable {enabled : Bool} {w : Window} {a : Arbiter}

theorem openWindow_skips (h : w.severity < a.minSeverity ∨ enabled = false) :
    openWindow enabled w a = (a, [⟨w, .skipped⟩]) := by
  rw [openWindow, if_pos h]

theorem openWindow_idle (hsev : a.minSeverity ≤ w.severity) (hen : enabled = true) (hactive : a.active = none) :
    openWindow enabled w a = ({ a with active := some (numbered w a), openCount := a.openCount + 1 }, []) := by
  rw [openWindow, if_neg (by simp [hen, hsev])]
  simp only [hactive]

theorem openWindow_waits {x : HeldWindow} (hsev : a.minSeverity ≤ w.severity) (hen : enabled = true)
    (hactive : a.active = some x) (hle : w.severity ≤ x.win.severity) : openWindow enabled w a = (await w a, []) := by
  rw [openWindow, if_neg (by simp [hen, hsev])]
  simp only [hactive, gt_iff_lt, if_neg (not_lt.2 hle)]

theorem openWindow_preempts {x : HeldWindow} (hsev : a.minSeverity ≤ w.severity) (hen : enabled = true)
    (hactive : a.active = some x) (hlt : x.win.severity < w.severity) : openWindow enabled w a = preempt w x a := by
  rw [openWindow, if_neg (by simp [hen, hsev])]
  simp only [hactive, gt_iff_lt, if_pos hlt]

end

/-- Settles O21: each clause is a branch of `openWindow`, and the two of a preemption are those of the stack's depth. -/
theorem arbiterOpens : Obligations.ArbiterOpens := by
  refine fun enabled w a => ⟨openWindow_skips, fun hsev hen => ⟨openWindow_idle hsev hen,
    fun x hactive hle => openWindow_waits hsev hen hactive hle, fun x hactive hlt => ⟨fun hroom => ?_,
      fun bottom y z hstack => ?_⟩⟩⟩
  · have hnotfull : ¬ stackLimit ≤ a.stack.length := not_le.2 hroom
    rw [openWindow_preempts hsev hen hactive hlt, preempt]
    simp only [hnotfull]
    rfl
  · rw [openWindow_preempts hsev hen hactive hlt, preempt]
    simp [hstack, stackLimit, numbered]

/-! ## Selection (R81) -/

theorem maxSeverity_eq {before after : List HeldWindow} {x : HeldWindow}
    (hbefore : ∀ y ∈ before, y.win.severity < x.win.severity) (hafter : ∀ y ∈ after, y.win.severity ≤ x.win.severity) :
    maxSeverity (before ++ x :: after) = x.win.severity := by
  refine Nat.le_antisymm (maxSeverity_le.2 fun y hy => ?_) (maxSeverity_le.1 le_rfl x (by simp))
  rcases List.mem_append.1 hy with hy | hy
  · exact (hbefore y hy).le
  · rcases List.mem_cons.1 hy with rfl | hy
    · exact le_rfl
    · exact hafter y hy

theorem select_top {a : Arbiter} {below : List HeldWindow} {top : HeldWindow} (hstack : a.stack = below ++ [top])
    (hwaiting : ∀ x ∈ a.waiting, x.win.severity ≤ top.win.severity) :
    select a = { a with active := some top, stack := below, selectionDue := false } := by
  simp [select, hstack, maxSeverity_le.2 hwaiting]

theorem select_waiting {a : Arbiter} {before after : List HeldWindow} {x : HeldWindow}
    (hwaiting : a.waiting = before ++ x :: after) (hbefore : ∀ y ∈ before, y.win.severity < x.win.severity)
    (hafter : ∀ y ∈ after, y.win.severity ≤ x.win.severity)
    (hstack : ∀ top, a.stack.getLast? = some top → top.win.severity < x.win.severity) :
    select a = { a with active := some x, waiting := before ++ after, selectionDue := false } := by
  have hmax : maxSeverity a.waiting = x.win.severity := by rw [hwaiting]; exact maxSeverity_eq hbefore hafter
  have htake : takeSeverity x.win.severity a.waiting = some (x, before ++ after) := by
    rw [hwaiting]
    exact takeSeverity_first (fun y hy => (hbefore y hy).ne) rfl
  unfold select
  split
  case h_1 top htop => simp [hmax, htake, hstack top htop]
  case h_2 => simp [hmax, htake]

theorem select_idle {a : Arbiter} (hstack : a.stack = []) (hwaiting : a.waiting = []) :
    select a = { a with active := none, selectionDue := false } := by
  simp [select, hstack, hwaiting, takeSeverity, maxSeverity]

/-- Settles O22: the three clauses are the three ways a selection can end. -/
theorem selectionPicksTheCandidate : Obligations.SelectionPicksTheCandidate := by
  refine fun a hactive => ⟨fun below top => select_top, fun before x after => select_waiting, fun hstack hwaiting => ?_⟩
  rw [select_idle hstack hwaiting, ← hactive]

/-- A list of windows that is not empty has a first most severe one. -/
theorem exists_first_most_severe {l : List HeldWindow} (h : l ≠ []) :
    ∃ before x after, l = before ++ x :: after ∧ (∀ y ∈ before, y.win.severity < x.win.severity) ∧
      ∀ y ∈ after, y.win.severity ≤ x.win.severity := by
  induction l with
  | nil => exact absurd rfl h
  | cons y rest ih =>
    by_cases hrest : ∀ z ∈ rest, z.win.severity ≤ y.win.severity
    · exact ⟨[], y, rest, rfl, by simp, hrest⟩
    · obtain ⟨z, hz, hlt⟩ : ∃ z ∈ rest, y.win.severity < z.win.severity := by simpa using hrest
      obtain ⟨before, x, after, rfl, hbefore, hafter⟩ := ih (List.ne_nil_of_mem hz)
      refine ⟨y :: before, x, after, rfl, ?_, hafter⟩
      have hle : z.win.severity ≤ x.win.severity := by
        rw [← maxSeverity_eq hbefore hafter]
        exact maxSeverity_le.1 le_rfl z hz
      simpa using ⟨hlt.trans_le hle, hbefore⟩

/-- What a selection can do: the stack top, a waiting window, or nothing becomes ACTIVE. -/
theorem select_cases (a : Arbiter) :
    (∃ below top, a.stack = below ++ [top] ∧ (∀ x ∈ a.waiting, x.win.severity ≤ top.win.severity) ∧
      select a = { a with active := some top, stack := below, selectionDue := false }) ∨
    (∃ before x after, a.waiting = before ++ x :: after ∧ (∀ y ∈ a.waiting, y.win.severity ≤ x.win.severity) ∧
      (∀ top, a.stack.getLast? = some top → top.win.severity < x.win.severity) ∧
      select a = { a with active := some x, waiting := before ++ after, selectionDue := false }) ∨
    (a.stack = [] ∧ a.waiting = [] ∧ select a = { a with active := none, selectionDue := false }) := by
  by_cases htop : ∃ top, a.stack.getLast? = some top ∧ ∀ x ∈ a.waiting, x.win.severity ≤ top.win.severity
  · obtain ⟨top, hlast, hwaiting⟩ := htop
    obtain ⟨below, hstack⟩ := List.getLast?_eq_some_iff.1 hlast
    exact .inl ⟨below, top, hstack, hwaiting, select_top hstack hwaiting⟩
  · push Not at htop
    by_cases hwaiting : a.waiting = []
    · have hstack : a.stack = [] := by
        rw [← List.getLast?_eq_none_iff]
        cases hlast : a.stack.getLast? with
        | none => rfl
        | some top =>
          obtain ⟨x, hx, -⟩ := htop top hlast
          simp [hwaiting] at hx
      exact .inr (.inr ⟨hstack, hwaiting, select_idle hstack hwaiting⟩)
    · obtain ⟨before, x, after, heq, hbefore, hafter⟩ := exists_first_most_severe hwaiting
      have hmax : ∀ y ∈ a.waiting, y.win.severity ≤ x.win.severity := by
        rw [heq, ← maxSeverity_eq hbefore hafter]
        exact maxSeverity_le.1 le_rfl
      have hstack : ∀ top, a.stack.getLast? = some top → top.win.severity < x.win.severity := by
        intro top hlast
        obtain ⟨y, hy, hlt⟩ := htop top hlast
        exact hlt.trans_le (hmax y hy)
      exact .inr (.inl ⟨before, x, after, heq, hmax, hstack, select_waiting heq hbefore hafter hstack⟩)

/-- A selection moves a window to ACTIVE and neither makes nor loses one. -/
theorem select_held_perm {a : Arbiter} (hactive : a.active = none) : (select a).held.Perm a.held := by
  rcases select_cases a with ⟨below, top, hstack, -, heq⟩ | ⟨before, x, after, hwaiting, -, -, heq⟩ | ⟨-, -, heq⟩
  · rw [heq]
    simp only [Arbiter.held, hactive, hstack]
    simpa using (List.perm_middle (a := top.win) (l₁ := below.map HeldWindow.win)).symm
  · rw [heq]
    simp only [Arbiter.held, hactive, hwaiting]
    simpa using (List.perm_middle (a := x.win)
      (l₁ := (a.stack ++ before).map HeldWindow.win) (l₂ := after.map HeldWindow.win)).symm
  · rw [heq]
    simp [Arbiter.held, hactive]

/-! ## Closes and removals (R55, R78 to R80, R82, R83) -/

/-- A list put in an order stands in it. -/
theorem sortBy_pairwise {α : Type} {lt : α → α → Bool} {r : α → α → Prop} (hlt : ∀ x y, lt x y = true → r x y)
    (hge : ∀ x y, lt x y = false → r y x) (htrans : ∀ x y z, r x y → r y z → r x z) (l : List α) :
    (sortBy lt l).Pairwise r := by
  have hinsert : ∀ (x : α) (m : List α), m.Pairwise r → (insertBy lt x m).Pairwise r := by
    intro x m hm
    induction m with
    | nil => simp [insertBy]
    | cons y rest ih =>
      obtain ⟨hy, hrest⟩ := List.pairwise_cons.1 hm
      simp only [insertBy]
      split
      case isTrue h =>
        refine List.pairwise_cons.2 ⟨fun z hz => ?_, ih hrest⟩
        rcases List.mem_cons.1 ((insertBy_perm lt x rest).mem_iff.1 hz) with rfl | hz
        · exact hlt _ _ h
        · exact hy z hz
      case isFalse h =>
        have hxy := hge y x (by simpa using h)
        refine List.pairwise_cons.2 ⟨fun z hz => ?_, hm⟩
        rcases List.mem_cons.1 hz with rfl | hz
        · exact hxy
        · exact htrans _ _ _ hxy (hy z hz)
  induction l with
  | nil => exact List.Pairwise.nil
  | cons x rest ih => exact hinsert x _ ih

/-- A list put in admission order: each number lies at least as far behind the next one's as those after it (R50). -/
theorem sortBy_admittedBefore (next : Count) (l : List Window) :
    (sortBy (admittedBefore next) l).Pairwise
      fun v w => (next - w.admissionNo).toNat ≤ (next - v.admissionNo).toNat := by
  refine sortBy_pairwise (fun v w h => ?_) (fun v w h => admittedBefore_total next v w h)
    (fun u v w h1 h2 => h2.trans h1) l
  have hlt : behind next w.admissionNo < behind next v.admissionNo := of_decide_eq_true h
  exact hlt.le

/-- The windows of the waiting set and of the stack that a batch closes, in admission order. -/
def closedHeld (next : Count) (a : Arbiter) : List Window :=
  sortBy (admittedBefore next) (((a.stack ++ a.waiting).filter fun h => windowPassed h.win).map HeldWindow.win)

theorem heldCloses_eq (next : Count) (a : Arbiter) :
    heldCloses next a = (closedHeld next a).map fun w => { win := w, outcome := .overridden } := rfl

/-- The retirements of a close: the passed windows of stack and waiting set in admission order, then the ACTIVE one. -/
theorem closePassed_retired (next : Count) (a : Arbiter) :
    (closePassed next a).2 = (closedHeld next a).map (fun w => ⟨w, .overridden⟩)
      ++ (a.active.toList.filter fun h => windowPassed h.win).map fun h => ⟨h.win, .served⟩ := by
  unfold closePassed
  split
  case h_1 h hactive =>
    simp only [hactive]
    split
    case isTrue hp => simp [heldCloses_eq, hp]
    case isFalse hp => split <;> simp [heldCloses_eq, hp]
  case h_2 hactive =>
    simp only [hactive]
    split <;> simp [heldCloses_eq]

/-- The arbiter without the windows of its stack and waiting set that satisfy `p`. -/
def withoutHeld (p : Window → Bool) (a : Arbiter) : Arbiter :=
  { a with stack := a.stack.filter (fun h => !p h.win), waiting := a.waiting.filter fun h => !p h.win }

section
variable {next : Count} {a : Arbiter}

theorem closePassed_active_passed {x : HeldWindow} (hactive : a.active = some x) (hp : windowPassed x.win = true) :
    (closePassed next a).1 = select { withoutHeld windowPassed a with active := none } := by
  simp [closePassed, hactive, hp, withoutHeld]

theorem closePassed_active_stays {x : HeldWindow} (hactive : a.active = some x) (hp : windowPassed x.win = false) :
    (closePassed next a).1 = { withoutHeld windowPassed a with selectionDue := false } := by
  cases hdue : a.selectionDue <;> simp [closePassed, hactive, hp, withoutHeld, hdue]

theorem closePassed_due (hactive : a.active = none) (hdue : a.selectionDue = true) :
    (closePassed next a).1 = select (withoutHeld windowPassed a) := by
  simp [closePassed, hactive, hdue, withoutHeld]

theorem closePassed_idle (hactive : a.active = none) (hdue : a.selectionDue = false) :
    (closePassed next a).1 = withoutHeld windowPassed a := by
  simp [closePassed, hactive, hdue, withoutHeld]

end

section
variable {p : Window → Bool} {a : Arbiter}

theorem removeWindows_active {x : HeldWindow} (defer : Bool) (hactive : a.active = some x) (hp : p x.win = true) :
    removeWindows p defer a =
      if defer then { withoutHeld p a with active := none, selectionDue := true }
      else select { withoutHeld p a with active := none } := by
  simp [removeWindows, hactive, hp, withoutHeld]

theorem removeWindows_kept (defer : Bool) (hactive : ∀ x, a.active = some x → p x.win = false) :
    removeWindows p defer a = withoutHeld p a := by
  cases h : a.active with
  | none => simp [removeWindows, h, withoutHeld]
  | some x => simp [removeWindows, h, hactive x h, withoutHeld]

end

/-- The closes and the removals in the statements' spelling of a window that stays. -/
theorem withoutHeld_passed (a : Arbiter) :
    withoutHeld windowPassed a = { a with
      stack := a.stack.filter fun h => decide (¬h.win.isPassed)
      waiting := a.waiting.filter fun h => decide (¬h.win.isPassed) } := by
  simp only [withoutHeld, windowPassed, decide_not]

/-- Settles O23: the closes by what is ACTIVE and whether a selection is due, the removals by whether the ACTIVE window is
among them. -/
theorem arbiterDepartures : Obligations.ArbiterDepartures := by
  refine ⟨fun next a => ?closes, fun p a => ⟨fun x hactive hp => ?removed, fun hkeeps => ?kept⟩⟩
  case closes =>
    refine ⟨fun x hactive hp => (closePassed_active_passed hactive (decide_eq_true hp)).trans ?_,
      fun x hactive hp => (closePassed_active_stays hactive (decide_eq_false hp)).trans ?_,
      fun hactive hdue => (closePassed_due hactive hdue).trans ?_,
      fun hactive hdue => (closePassed_idle hactive hdue).trans ?_,
      closedHeld next a, sortBy_perm _ _, sortBy_admittedBefore next _, closePassed_retired next a⟩ <;>
    rw [withoutHeld_passed]
  case removed => exact ⟨removeWindows_active false hactive hp, removeWindows_active true hactive hp⟩
  case kept => exact ⟨removeWindows_kept false hkeeps, removeWindows_kept true hkeeps⟩

/-! ## What an arbiter holds after an operation -/

theorem filter_append_filter_not_perm {α : Type} (p : α → Bool) (l : List α) :
    (l.filter p ++ l.filter fun x => !p x).Perm l := List.filter_append_perm p l

theorem withoutHeld_held (p : Window → Bool) (a : Arbiter) :
    (withoutHeld p a).held = a.active.toList.map HeldWindow.win
      ++ ((a.stack ++ a.waiting).map HeldWindow.win).filter fun w => !p w := by
  simp [withoutHeld, Arbiter.held, List.filter_map, Function.comp_def]

/-- A close retires the passed windows and keeps the others (R55). -/
theorem closePassed_perm (next : Count) (a : Arbiter) :
    (closePassed next a).1.held.Perm (a.held.filter fun w => !windowPassed w) ∧
      ((closePassed next a).2.map Retirement.win).Perm (a.held.filter windowPassed) := by
  constructor
  · cases hactive : a.active with
    | none =>
      have hwithout : (withoutHeld windowPassed a).held = a.held.filter fun w => !windowPassed w := by
        rw [withoutHeld_held, Arbiter.held, hactive]
        simp
      cases hdue : a.selectionDue with
      | false => rw [closePassed_idle hactive hdue, hwithout]
      | true =>
        rw [closePassed_due hactive hdue, ← hwithout]
        exact select_held_perm hactive
    | some x =>
      have hkept : ((withoutHeld windowPassed a).stack ++ (withoutHeld windowPassed a).waiting).map HeldWindow.win =
          ((a.stack ++ a.waiting).map HeldWindow.win).filter fun w => !windowPassed w := by
        simp [withoutHeld, List.filter_map, Function.comp_def]
      cases hp : windowPassed x.win with
      | false =>
        rw [closePassed_active_stays hactive hp]
        simp only [Arbiter.held, hkept]
        simp [withoutHeld, hactive, hp]
      | true =>
        rw [closePassed_active_passed hactive hp]
        refine (select_held_perm rfl).trans ?_
        simp only [Arbiter.held, hkept]
        simp [hactive, hp]
  · rw [closePassed_retired]
    have hsorted : (closedHeld next a).Perm (((a.stack ++ a.waiting).map HeldWindow.win).filter windowPassed) := by
      refine (sortBy_perm _ _).trans ?_
      rw [List.filter_map]
      rfl
    simp only [List.map_append, List.map_map, Function.comp_def, List.map_id']
    refine (List.Perm.append_right _ hsorted).trans (List.perm_append_comm.trans ?_)
    rw [Arbiter.held, List.filter_append, List.filter_map (l := a.active.toList)]
    rfl

/-- A cancellation takes the windows out of their places and keeps the others (R82). -/
theorem removeWindows_perm (p : Window → Bool) (a : Arbiter) :
    (removeWindows p false a).held.Perm (a.held.filter fun w => !p w) := by
  by_cases hkeeps : ∀ x, a.active = some x → p x.win = false
  · rw [removeWindows_kept false hkeeps, withoutHeld_held, Arbiter.held, List.filter_append]
    cases hactive : a.active with
    | none => simp
    | some x => simp [hkeeps x hactive]
  · push Not at hkeeps
    obtain ⟨x, hactive, hp⟩ := hkeeps
    have hp : p x.win = true := by simpa using hp
    rw [removeWindows_active false hactive hp]
    refine (select_held_perm rfl).trans ?_
    simp [withoutHeld, Arbiter.held, hactive, hp, List.filter_map, Function.comp_def]

/-- An open puts the window into the arbiter or retires one (R74 to R77). -/
theorem openWindow_perm (enabled : Bool) (w : Window) (a : Arbiter) :
    ((openWindow enabled w a).1.held ++ (openWindow enabled w a).2.map Retirement.win).Perm (a.held ++ [w]) := by
  by_cases hskip : w.severity < a.minSeverity ∨ enabled = false
  · rw [openWindow_skips hskip]
    rfl
  · obtain ⟨hsev, hen⟩ : a.minSeverity ≤ w.severity ∧ enabled = true := by simpa [not_or] using hskip
    cases hactive : a.active with
    | none =>
      rw [openWindow_idle hsev hen hactive]
      refine List.perm_iff_count.2 fun v => ?_
      simp [Arbiter.held, hactive, numbered, List.count_cons]
      omega
    | some x =>
      by_cases hle : w.severity ≤ x.win.severity
      · rw [openWindow_waits hsev hen hactive hle]
        simp [Arbiter.held, await, hactive, numbered]
      · rw [openWindow_preempts hsev hen hactive (not_le.1 hle)]
        unfold preempt
        by_cases hfull : stackLimit ≤ a.stack.length
        · obtain ⟨y, rest, hstack⟩ : ∃ y rest, a.stack = y :: rest :=
            List.exists_cons_of_length_pos (by simp only [stackLimit] at hfull; omega)
          refine List.perm_iff_count.2 fun v => ?_
          rw [hstack, List.length_cons] at hfull
          simp [hfull, hstack, Arbiter.held, hactive, numbered, List.count_cons]
          omega
        · refine List.perm_iff_count.2 fun v => ?_
          simp [hfull, Arbiter.held, hactive, numbered, List.count_cons]
          omega

theorem openAll_perm (enabled : Bool) (ws : List Window) (a : Arbiter) :
    ((openAll enabled ws a).1.held ++ (openAll enabled ws a).2.map Retirement.win).Perm (a.held ++ ws) := by
  induction ws generalizing a with
  | nil => simp [openAll]
  | cons w rest ih =>
    have hfirst := openWindow_perm enabled w a
    have hrest := ih (openWindow enabled w a).1
    refine List.perm_iff_count.2 fun v => ?_
    have h1 := hfirst.count_eq v
    have h2 := hrest.count_eq v
    simp only [openAll, List.map_append, List.count_append, List.count_cons, List.count_nil] at h1 h2 ⊢
    omega

end Sys2Proof.Machine
end

section
/-! PROOFS. What the operations of an arbiter keep: the structure of R84, and the corner options (R89). -/

namespace Sys2Proof.Machine

open Sys2Proof

/-! ## The structure of an arbitration (R84) -/

/-- The structure of R84 between stages 2 and 4 of a travel step, where a selection may be due (R83). -/
def ArbiterAwaits (a : Arbiter) : Prop :=
  a.stack.length ≤ 3 ∧
  a.stack.Pairwise (fun x y => x.win.severity < y.win.severity) ∧
  (∀ h, a.active = some h → (∀ x ∈ a.stack, x.win.severity < h.win.severity) ∧
    ∀ x ∈ a.waiting, x.win.severity ≤ h.win.severity) ∧
  (a.active = none → a.selectionDue = false → a.stack = [] ∧ a.waiting = [])

theorem ArbiterLegal.awaits {a : Arbiter} (h : ArbiterLegal a) : ArbiterAwaits a :=
  ⟨h.1, h.2.1, h.2.2.1, fun hactive _ => h.2.2.2.1 hactive⟩

/-- A selection needs an ordered stack alone: what it makes ACTIVE is above the rest. -/
theorem select_legal {a : Arbiter} (hlen : a.stack.length ≤ 3)
    (hstack : a.stack.Pairwise fun x y => x.win.severity < y.win.severity) : ArbiterLegal (select a) := by
  rcases select_cases a with ⟨below, top, heq, hwaiting, hsel⟩ | ⟨before, x, after, heq, hmax, hbelow, hsel⟩ |
    ⟨hnone, hwaiting, hsel⟩
  · rw [hsel]
    rw [heq] at hstack hlen
    obtain ⟨hpair, -, htop⟩ := List.pairwise_append.1 hstack
    rw [List.length_append] at hlen
    exact ⟨by simp only [List.length_singleton] at hlen ⊢; omega, hpair,
      by rintro h ⟨⟩; exact ⟨fun y hy => htop y hy _ (List.mem_singleton.2 rfl), hwaiting⟩, nofun, rfl⟩
  · rw [hsel]
    refine ⟨hlen, hstack, ?_, nofun, rfl⟩
    rintro h ⟨⟩
    refine ⟨fun y hy => ?_, fun y hy => hmax y ?_⟩
    · obtain ⟨below, top, hsplit⟩ := List.eq_nil_or_concat a.stack |>.resolve_left (List.ne_nil_of_mem hy)
      rw [List.concat_eq_append] at hsplit
      have htop := hbelow top (by rw [hsplit]; simp)
      rw [hsplit] at hy hstack
      rcases List.mem_append.1 hy with hy | hy
      · exact ((List.pairwise_append.1 hstack).2.2 y hy top (by simp)).trans htop
      · rw [List.mem_singleton.1 hy]
        exact htop
    · rw [heq]
      rcases List.mem_append.1 hy with hy | hy <;> simp [hy]
  · rw [hsel]
    exact ⟨hlen, hstack, nofun, fun _ => ⟨hnone, hwaiting⟩, rfl⟩

/-- Taking windows out of the stack and the waiting set leaves the others ordered. -/
theorem withoutHeld_awaits (p : Window → Bool) {a : Arbiter} (h : ArbiterAwaits a) : ArbiterAwaits (withoutHeld p a) := by
  obtain ⟨hlen, hstack, hactive, hidle⟩ := h
  refine ⟨(List.length_filter_le _ _).trans hlen, hstack.filter _, fun x hx => ?_, fun hnone hdue => ?_⟩
  · exact ⟨fun y hy => (hactive x hx).1 y (List.mem_of_mem_filter hy),
      fun y hy => (hactive x hx).2 y (List.mem_of_mem_filter hy)⟩
  · obtain ⟨h1, h2⟩ := hidle hnone hdue
    simp [withoutHeld, h1, h2]

theorem ArbiterAwaits.legal {a : Arbiter} (h : ArbiterAwaits a) (hdue : a.selectionDue = false) : ArbiterLegal a :=
  ⟨h.1, h.2.1, h.2.2.1, fun hactive => h.2.2.2 hactive hdue, hdue⟩

/-- Stage 4 makes every selection that is due, and leaves none (R83). -/
theorem closePassed_legal (next : Count) {a : Arbiter} (h : ArbiterAwaits a) : ArbiterLegal (closePassed next a).1 := by
  have hkept := withoutHeld_awaits windowPassed h
  cases hactive : a.active with
  | none =>
    cases hdue : a.selectionDue with
    | false =>
      rw [closePassed_idle hactive hdue]
      exact hkept.legal hdue
    | true =>
      rw [closePassed_due hactive hdue]
      exact select_legal hkept.1 hkept.2.1
  | some x =>
    cases hp : windowPassed x.win with
    | false =>
      rw [closePassed_active_stays hactive hp]
      refine ⟨hkept.1, hkept.2.1, hkept.2.2.1, fun hnone => ?_, rfl⟩
      exact absurd (hactive.symm.trans hnone) nofun
    | true =>
      rw [closePassed_active_passed hactive hp]
      exact select_legal hkept.1 hkept.2.1

/-- An expiry leaves at most a selection due (R83). -/
theorem removeWindows_awaits (p : Window → Bool) {a : Arbiter} (h : ArbiterAwaits a) :
    ArbiterAwaits (removeWindows p true a) := by
  have hkept := withoutHeld_awaits p h
  by_cases hkeeps : ∀ x, a.active = some x → p x.win = false
  · rw [removeWindows_kept true hkeeps]
    exact hkept
  · push Not at hkeeps
    obtain ⟨x, hactive, hp⟩ := hkeeps
    rw [removeWindows_active true hactive (by simpa using hp)]
    exact ⟨hkept.1, hkept.2.1, nofun, nofun⟩

/-- A cancellation selects at once (R82). -/
theorem removeWindows_legal (p : Window → Bool) {a : Arbiter} (h : ArbiterLegal a) :
    ArbiterLegal (removeWindows p false a) := by
  have hkept := withoutHeld_awaits p h.awaits
  by_cases hkeeps : ∀ x, a.active = some x → p x.win = false
  · rw [removeWindows_kept false hkeeps]
    exact hkept.legal h.2.2.2.2
  · push Not at hkeeps
    obtain ⟨x, hactive, hp⟩ := hkeeps
    rw [removeWindows_active false hactive (by simpa using hp)]
    exact select_legal hkept.1 hkept.2.1

/-- Windows changed in their places, their severities kept, leave the structure. -/
theorem mapHeld_legal {f : Window → Window} (hf : ∀ w, (f w).severity = w.severity) {a : Arbiter} (h : ArbiterLegal a) :
    ArbiterLegal (mapHeld f a) := by
  obtain ⟨hlen, hstack, hactive, hidle, hdue⟩ := h
  refine ⟨by simpa [mapHeld] using hlen, ?_, fun x hx => ?_, fun hnone => ?_, hdue⟩
  · exact List.pairwise_map.2 (hstack.imp fun hlt => by simpa [hf] using hlt)
  · obtain ⟨y, hy, rfl⟩ := Option.map_eq_some_iff.1 hx
    obtain ⟨hbelow, hwait⟩ := hactive y hy
    simpa [mapHeld, hf] using ⟨hbelow, hwait⟩
  · obtain ⟨h1, h2⟩ := hidle (Option.map_eq_none_iff.1 hnone)
    simp [mapHeld, h1, h2]

theorem clearArbitration_legal (a : Arbiter) : ArbiterLegal (clearArbitration a) := by
  simp [ArbiterLegal, clearArbitration]

/-- A preemption pushes the ACTIVE window onto a stack that stays ordered and within its depth (R76). -/
theorem preempt_legal {w : Window} {x : HeldWindow} {a : Arbiter} (h : ArbiterLegal a) (hactive : a.active = some x)
    (hlt : x.win.severity < w.severity) : ArbiterLegal (preempt w x a).1 := by
  obtain ⟨hlen, hstack, hbounds, hidle, hdue⟩ := h
  obtain ⟨hbelow, hwaiting⟩ := hbounds x hactive
  have hsub : (if stackLimit ≤ a.stack.length then a.stack.drop 1 else a.stack).Sublist a.stack := by
    split
    · exact List.drop_sublist 1 _
    · exact List.Sublist.refl _
  have hroom : (if stackLimit ≤ a.stack.length then a.stack.drop 1 else a.stack).length ≤ 2 := by
    split
    case isTrue => rw [List.length_drop]; omega
    case isFalse hfull => exact Nat.le_of_lt_succ (not_le.1 hfull)
  simp only [preempt]
  generalize (if stackLimit ≤ a.stack.length then a.stack.drop 1 else a.stack) = kept at hsub hroom
  refine ⟨by simp; omega, List.pairwise_append.2 ⟨hstack.sublist hsub, by simp, fun y hy z hz => ?_⟩, ?_, nofun, hdue⟩
  · rw [List.mem_singleton.1 hz]
    exact hbelow y (hsub.subset hy)
  · rintro h ⟨⟩
    refine ⟨fun y hy => ?_, fun y hy => (hwaiting y hy).trans hlt.le⟩
    rcases List.mem_append.1 hy with hy | hy
    · exact (hbelow y (hsub.subset hy)).trans hlt
    · rw [List.mem_singleton.1 hy]
      exact hlt

/-- An open keeps the structure: a window waits at most as severe as the ACTIVE one, or preempts a less severe (R76, R77). -/
theorem openWindow_legal (enabled : Bool) (w : Window) {a : Arbiter} (h : ArbiterLegal a) :
    ArbiterLegal (openWindow enabled w a).1 := by
  by_cases hskip : w.severity < a.minSeverity ∨ enabled = false
  · rw [openWindow_skips hskip]
    exact h
  · obtain ⟨hsev, hen⟩ : a.minSeverity ≤ w.severity ∧ enabled = true := by simpa [not_or] using hskip
    obtain ⟨hlen, hstack, hbounds, hidle, hdue⟩ := id h
    cases hactive : a.active with
    | none =>
      rw [openWindow_idle hsev hen hactive]
      obtain ⟨h1, h2⟩ := hidle hactive
      simp [ArbiterLegal, h1, h2, hdue]
    | some x =>
      by_cases hle : w.severity ≤ x.win.severity
      · rw [openWindow_waits hsev hen hactive hle]
        refine ⟨hlen, hstack, fun y hy => ?_, fun hnone => absurd (hactive.symm.trans hnone) nofun, hdue⟩
        obtain rfl : x = y := Option.some.inj (hactive.symm.trans hy)
        refine ⟨(hbounds x hactive).1, fun z hz => ?_⟩
        rcases List.mem_append.1 hz with hz | hz
        · exact (hbounds x hactive).2 z hz
        · rw [List.mem_singleton.1 hz]
          exact hle
      · rw [openWindow_preempts hsev hen hactive (not_le.1 hle)]
        exact preempt_legal h hactive (not_le.1 hle)

theorem openAll_legal (enabled : Bool) (ws : List Window) {a : Arbiter} (h : ArbiterLegal a) :
    ArbiterLegal (openAll enabled ws a).1 := by
  induction ws generalizing a with
  | nil => exact h
  | cons w rest ih => exact ih (openWindow_legal enabled w h)

/-! ## The corner options -/

/-- Two arbiters have the same corner options (R89). -/
def SameOptions (a b : Arbiter) : Prop :=
  b.minSeverity = a.minSeverity ∧ b.reportRegLow = a.reportRegLow ∧ b.reportSensor = a.reportSensor

theorem SameOptions.trans {a b c : Arbiter} (h : SameOptions a b) (k : SameOptions b c) : SameOptions a c :=
  ⟨k.1.trans h.1, k.2.1.trans h.2.1, k.2.2.trans h.2.2⟩

theorem select_sameOptions (a : Arbiter) : SameOptions a (select a) := by
  rcases select_cases a with ⟨_, _, -, -, hsel⟩ | ⟨_, _, _, -, -, -, hsel⟩ | ⟨-, -, hsel⟩ <;> rw [hsel] <;>
    exact ⟨rfl, rfl, rfl⟩

theorem closePassed_sameOptions (next : Count) (a : Arbiter) : SameOptions a (closePassed next a).1 := by
  cases hactive : a.active with
  | none =>
    cases hdue : a.selectionDue with
    | false => rw [closePassed_idle hactive hdue]; exact ⟨rfl, rfl, rfl⟩
    | true => rw [closePassed_due hactive hdue]; exact select_sameOptions (withoutHeld windowPassed a)
  | some x =>
    cases hp : windowPassed x.win with
    | false => rw [closePassed_active_stays hactive hp]; exact ⟨rfl, rfl, rfl⟩
    | true =>
      rw [closePassed_active_passed hactive hp]
      exact select_sameOptions { withoutHeld windowPassed a with active := none }

theorem removeWindows_sameOptions (p : Window → Bool) (defer : Bool) (a : Arbiter) :
    SameOptions a (removeWindows p defer a) := by
  by_cases hkeeps : ∀ x, a.active = some x → p x.win = false
  · rw [removeWindows_kept defer hkeeps]
    exact ⟨rfl, rfl, rfl⟩
  · push Not at hkeeps
    obtain ⟨x, hactive, hp⟩ := hkeeps
    rw [removeWindows_active defer hactive (by simpa using hp)]
    split
    case isTrue => exact ⟨rfl, rfl, rfl⟩
    case isFalse => exact select_sameOptions { withoutHeld p a with active := none }

theorem openWindow_sameOptions (enabled : Bool) (w : Window) (a : Arbiter) :
    SameOptions a (openWindow enabled w a).1 := by
  unfold openWindow
  repeat' split
  all_goals exact ⟨rfl, rfl, rfl⟩

theorem openAll_sameOptions (enabled : Bool) (ws : List Window) (a : Arbiter) :
    SameOptions a (openAll enabled ws a).1 := by
  induction ws generalizing a with
  | nil => exact ⟨rfl, rfl, rfl⟩
  | cons w rest ih => exact (openWindow_sameOptions enabled w a).trans (ih _)

theorem mapHeld_sameOptions (f : Window → Window) (a : Arbiter) : SameOptions a (mapHeld f a) := ⟨rfl, rfl, rfl⟩

end Sys2Proof.Machine
end

section
/-! PROOFS. The travel step (R51 to R58, R60 to R62): its state after stages 1 to 5 in the words of `openedState`, what the
settlement does to the windows, and where every window of the step comes from. -/

namespace Sys2Proof.Machine

open Sys2Proof

/-! ## Stages 1 to 5 -/

/-- The PENDING windows after stages 1 and 2. -/
def travelLive (s : State) : List Window :=
  (s.sched.pendingWindows.map (movedWindow s)).filter fun w => !endsByAge s w

/-- The PENDING windows after stage 3. -/
def travelAhead (s : State) : List Window := (travelLive s).filter fun w => !windowPassed w

/-- A corner's arbiter after stages 1 and 2. -/
def travelAged (s : State) (c : Corner) : Arbiter :=
  removeWindows (endsByAge s) true (mapHeld (movedWindow s) (s.arb.get c))

/-- A corner's arbiter after stage 4, with the retirements it returns. -/
def travelClosed (s : State) (c : Corner) : Arbiter × List Retirement :=
  closePassed s.sched.admissionNo (travelAged s c)

/-- A corner's batch of opens. -/
def travelBatch (s : State) (c : Corner) : List Window :=
  sortBy (nearer s.sched.admissionNo) ((travelAhead s).filter fun w => withinLead w && w.corner == c)

/-- A corner's arbiter after stage 5, with the retirements it returns. -/
def travelOpened (s : State) (c : Corner) : Arbiter × List Retirement :=
  openAll (modeRow s.cal.working s.modes.inForce).preview (travelBatch s c) (travelClosed s c).1

/-- Every retirement of stages 3 to 5. -/
def travelRetired (s : State) : List Retirement :=
  (((travelLive s).filter windowPassed).map fun w => ⟨w, .skipped⟩)
    ++ Corner.all.flatMap (fun c => (travelClosed s c).2) ++ Corner.all.flatMap fun c => (travelOpened s c).2

/-- The part after stages 1 to 5 of a travel step. -/
def travelOpen (s : State) : State := openStage (closeStage (skipStage (expiryStage (moveStage s))))

theorem travelStep_eq (s : State) : travelStep s = settleStage (travelOpen s) := rfl

theorem travelOpen_eq (s : State) :
    travelOpen s = { s with
      sched :=
        { events := (s.sched.events.filter fun e => (expiring s).all fun x => e.tag != x.tag).map
            (countedEvent (travelRetired s))
          pendingWindows := (travelAhead s).filter fun w => !withinLead w
          completions := s.sched.completions ++ (expiring s).map (recordOf .expired (s.sched.msCount + 1))
          orphanCount :=
            s.sched.orphanCount
              - (s.windows.filter fun w => isOrphan w && decide (expiresNow s w.admissionMs)).length
              - ((travelRetired s).filter fun r => isOrphan r.win).length
          carry := carryAfter s
          msCount := s.sched.msCount + 1
          admissionNo := s.sched.admissionNo }
      arb := PerCorner.build fun c => (travelOpened s c).1 } := by
  have haged : ∀ c, (s.arb.map fun a => removeWindows (endsByAge s) true (mapHeld (movedWindow s) a)).get c =
      travelAged s c := fun c => PerCorner.get_map _ _ c
  rw [travelOpen, expiryStage_moveStage]
  simp only [skipStage, closeStage, openStage, openedArbiter, openBatch, State.setSched, accountAll_eq, haged,
    PerCorner.get_build]
  simp only [List.map_map, Function.comp_def, countedEvent_append, Nat.sub_sub, travelRetired, List.filter_append,
    List.length_append, Nat.add_assoc]
  rfl

theorem any_tag_ne_iff (es : List Event) (p : Event → Prop) [DecidablePred p] (e : Event) :
    ((es.filter fun x => decide (p x)).all fun x => e.tag != x.tag) = decide (∀ x ∈ es, p x → x.tag ≠ e.tag) := by
  rw [Bool.eq_iff_iff, List.all_eq_true, decide_eq_true_iff]
  simp only [List.mem_filter, decide_eq_true_eq, bne_iff_ne, and_imp, ne_comm]

/-- The words of `openedState` for the part after stages 1 to 5. -/
theorem travelOpen_openedState (s : State) : openedState (travelBatch s) s (travelOpen s) := by
  have hahead : ((s.sched.pendingWindows.map (movedWindow s)).filter fun w => !endsByAge s w).filter
      (fun w => decide (¬w.isPassed)) = travelAhead s :=
    List.filter_congr fun w _ => decide_not
  have hbatch : ∀ c, ((travelAhead s).filter fun w => withinLead w && w.corner == c) =
      (travelAhead s).filter fun w => decide (w.pos ≤ w.lead ∧ w.corner = c) :=
    fun c => List.filter_congr fun w _ => by rw [Bool.decide_and]; rfl
  have hpending : ((travelAhead s).filter fun w => !withinLead w) =
      (travelAhead s).filter fun w => decide ((w.lead : Int) < w.pos) :=
    List.filter_congr fun w _ => by rw [Bool.eq_iff_iff]; simp [withinLead]
  unfold openedState
  simp only [hahead]
  refine ⟨fun c => ⟨?_, sortBy_opensBefore _ _⟩, fun c => ?_, ?_, ?_⟩
  · rw [← hbatch]
    exact sortBy_perm _ _
  · rw [travelOpen_eq, PerCorner.get_build]
    rfl
  · rw [travelOpen_eq]
    simp only [expiring, any_tag_ne_iff, hpending]
    rfl
  · rw [travelOpen_eq]

/-! ## The settlement -/

/-- A change of windows that at most makes some of them orphans (R64). -/
def OrphansOnly (g : Window → Window) : Prop := ∀ w, g w = w ∨ g w = { w with parent := .orphan }

theorem orphan_orphansOnly (tag : Nat) : OrphansOnly (orphan tag) := by
  intro w
  unfold orphan
  split
  · exact .inr rfl
  · exact .inl rfl

theorem OrphansOnly.comp {f g : Window → Window} (hg : OrphansOnly g) (hf : OrphansOnly f) : OrphansOnly (g ∘ f) := by
  intro w
  rcases hf w with h | h <;> simp only [Function.comp, h]
  · exact hg w
  · rcases hg { w with parent := .orphan } with h | h <;> exact .inr h

/-- A window keeps all but its parent. -/
theorem OrphansOnly.keeps {g : Window → Window} (hg : OrphansOnly g) (w : Window) :
    g w = { w with parent := (g w).parent } ∧ ((g w).parent = w.parent ∨ (g w).parent = .orphan) := by
  rcases hg w with h | h <;> rw [h]
  · exact ⟨rfl, .inl rfl⟩
  · exact ⟨rfl, .inr rfl⟩

theorem mapHeld_comp (f g : Window → Window) (a : Arbiter) : mapHeld g (mapHeld f a) = mapHeld (g ∘ f) a := by
  obtain ⟨act, st, wt, oc, sd, ms, r1, r2⟩ := a
  cases act <;> simp [mapHeld, Function.comp_def]

theorem mapHeld_id (a : Arbiter) : mapHeld id a = a := by
  obtain ⟨act, st, wt, oc, sd, ms, r1, r2⟩ := a
  cases act <;> simp [mapHeld]

/-- What the settlement of events can do to the scheduler and the windows: windows become orphans, records of the events
join the list, events leave the table (R58, R63 to R65). -/
def Settled (es : List Event) (s t : State) : Prop :=
  (∃ g, OrphansOnly g ∧ t.sched.pendingWindows = s.sched.pendingWindows.map g ∧
    ∀ c, t.arb.get c = mapHeld g (s.arb.get c)) ∧
  (∃ posted, t.sched.completions = s.sched.completions ++ posted ∧ ∀ r ∈ posted, ∃ e ∈ es, r.tag = e.tag) ∧
  t.sched.events.map Event.tag ⊆ s.sched.events.map Event.tag ∧
  t.sched.msCount = s.sched.msCount ∧ t.sched.admissionNo = s.sched.admissionNo ∧ t.sched.carry = s.sched.carry

theorem Settled.refl (es : List Event) (s : State) : Settled es s s :=
  ⟨⟨id, fun _ => .inl rfl, by simp, fun c => (mapHeld_id _).symm⟩, ⟨[], by simp, by simp⟩, fun _ h => h, rfl, rfl, rfl⟩

/-- A posting of one event, its windows left as they are. -/
theorem settled_post (e : Event) (s : State) : Settled [e] s (s.setSched (post .normal e s.sched)) := by
  refine ⟨⟨id, fun _ => .inl rfl, by simp [post], fun c => (mapHeld_id _).symm⟩,
    ⟨[recordOf .normal s.sched.msCount e], rfl, by simp [recordOf]⟩, ?_, rfl, rfl, rfl⟩
  exact List.map_subset _ (List.filter_subset_self _)

theorem settled_postEarly (e : Event) (s : State) : Settled [e] s (postEarly e s) := by
  refine ⟨⟨orphan e.tag, orphan_orphansOnly e.tag, rfl, fun c => PerCorner.get_map _ _ c⟩,
    ⟨[recordOf .normal s.sched.msCount e], rfl, by simp [recordOf]⟩, ?_, rfl, rfl, rfl⟩
  exact List.map_subset _ (List.filter_subset_self _)

theorem forceLate_tags (tag : Nat) (sch : Scheduler) :
    (forceLate tag sch).events.map Event.tag = sch.events.map Event.tag := by
  simp only [forceLate, List.map_map]
  refine List.map_congr_left fun x _ => ?_
  simp only [Function.comp]
  split <;> rfl

theorem settled_forceLate (e : Event) (s : State) : Settled [e] s (s.setSched (forceLate e.tag s.sched)) := by
  refine ⟨⟨id, fun _ => .inl rfl, by simp [forceLate], fun c => (mapHeld_id _).symm⟩, ⟨[], by simp [forceLate], by simp⟩,
    ?_, rfl, rfl, rfl⟩
  rw [State.setSched_sched, forceLate_tags]
  exact fun _ h => h

/-- What the settlement of one event can do. -/
theorem settleEvent_cases (s : State) (e : Event) :
    settleEvent s e = s ∨
    (s.liveWindows e.tag = [] ∧ settleEvent s e = s.setSched (post .normal e s.sched)) ∨
    ((s.liveWindows e.tag).length ≤ orphanLimit - s.sched.orphanCount ∧ settleEvent s e = postEarly e s) ∨
    settleEvent s e = s.setSched (forceLate e.tag s.sched) := by
  unfold settleEvent
  repeat' split
  case isTrue.isTrue => exact .inl rfl
  case isTrue.isFalse.isTrue hroom => exact .inr (.inr (.inl ⟨hroom, rfl⟩))
  case isTrue.isFalse.isFalse => exact .inr (.inr (.inr rfl))
  case isFalse.isTrue hlive => exact .inr (.inl ⟨hlive, rfl⟩)
  case isFalse.isFalse => exact .inl rfl

theorem settleEvent_settled (s : State) (e : Event) : Settled [e] s (settleEvent s e) := by
  rcases settleEvent_cases s e with h | ⟨-, h⟩ | ⟨-, h⟩ | h <;> rw [h]
  · exact Settled.refl [e] s
  · exact settled_post e s
  · exact settled_postEarly e s
  · exact settled_forceLate e s

theorem Settled.trans {es fs : List Event} {s t u : State} (h : Settled es s t) (k : Settled fs t u) :
    Settled (es ++ fs) s u := by
  obtain ⟨⟨f, hf, hpend, harb⟩, ⟨p, hp, hpe⟩, hev, h1, h2, h3⟩ := h
  obtain ⟨⟨g, hg, hpend', harb'⟩, ⟨q, hq, hqe⟩, hev', k1, k2, k3⟩ := k
  refine ⟨⟨g ∘ f, hg.comp hf, by rw [hpend', hpend, List.map_map], fun c => by rw [harb', harb, mapHeld_comp]⟩,
    ⟨p ++ q, by rw [hq, hp, List.append_assoc], fun r hr => ?_⟩, fun _ hx => hev (hev' hx), k1.trans h1, k2.trans h2,
    k3.trans h3⟩
  rcases List.mem_append.1 hr with hr | hr
  · obtain ⟨e, he, htag⟩ := hpe r hr
    exact ⟨e, List.mem_append_left _ he, htag⟩
  · obtain ⟨e, he, htag⟩ := hqe r hr
    exact ⟨e, List.mem_append_right _ he, htag⟩

theorem settleEvents_settled (es : List Event) (s : State) : Settled es s (es.foldl settleEvent s) := by
  induction es generalizing s with
  | nil => exact Settled.refl [] s
  | cons e rest ih => exact (settleEvent_settled s e).trans (ih _)

theorem travelStep_settled (s : State) : Settled (travelOpen s).sched.events (travelOpen s) (travelStep s) :=
  settleEvents_settled _ _

/-! ## Where the windows of a step come from -/

/-- A window that stays through stages 1 to 5 as another: it does not end by age, is moved, and is not PASSED. -/
def staysAs (s : State) (w v : Window) : Prop := endsByAge s w = false ∧ v = movedWindow s w ∧ ¬v.isPassed

theorem mem_travelAhead {s : State} {v : Window} :
    v ∈ travelAhead s ↔ ∃ w ∈ s.sched.pendingWindows, staysAs s w v := by
  simp only [travelAhead, travelLive, List.mem_filter, List.mem_map, staysAs, ← windowPassed_iff]
  constructor
  · rintro ⟨⟨⟨w, hw, rfl⟩, hends⟩, hpassed⟩
    rw [endsByAge_moved] at hends
    exact ⟨w, hw, by simpa using hends, rfl, by simpa using hpassed⟩
  · rintro ⟨w, hw, hends, rfl, hpassed⟩
    exact ⟨⟨⟨w, hw, rfl⟩, by rw [endsByAge_moved, hends]; rfl⟩, by simpa using hpassed⟩

theorem mem_travelBatch {s : State} {c : Corner} {v : Window} :
    v ∈ travelBatch s c ↔ v ∈ travelAhead s ∧ v.pos ≤ v.lead ∧ v.corner = c := by
  rw [travelBatch, mem_sortBy]
  simp [withinLead]

theorem mem_travelClosed {s : State} {c : Corner} {v : Window} :
    v ∈ (travelClosed s c).1.held ↔ ∃ w ∈ (s.arb.get c).held, staysAs s w v := by
  rw [travelClosed, (closePassed_perm _ _).1.mem_iff, travelAged, removeWindows_held, mapHeld_held]
  simp only [List.mem_filter, List.mem_map, staysAs, ← windowPassed_iff]
  constructor
  · rintro ⟨⟨⟨w, hw, rfl⟩, hends⟩, hpassed⟩
    rw [endsByAge_moved] at hends
    exact ⟨w, hw, by simpa using hends, rfl, by simpa using hpassed⟩
  · rintro ⟨w, hw, hends, rfl, hpassed⟩
    exact ⟨⟨⟨w, hw, rfl⟩, by rw [endsByAge_moved, hends]; rfl⟩, by simpa using hpassed⟩

/-- Stage 5 puts windows of the batch into the arbiter and no others. -/
theorem mem_travelOpened {s : State} {c : Corner} {v : Window} (h : v ∈ (travelOpened s c).1.held) :
    v ∈ (travelClosed s c).1.held ∨ v ∈ travelBatch s c := by
  have hperm := openAll_perm (modeRow s.cal.working s.modes.inForce).preview (travelBatch s c) (travelClosed s c).1
  exact List.mem_append.1 (hperm.subset (List.mem_append_left _ h))

theorem travelOpen_pending (s : State) {v : Window} :
    v ∈ (travelOpen s).sched.pendingWindows ↔ v ∈ travelAhead s ∧ (v.lead : Int) < v.pos := by
  rw [travelOpen_eq]
  simp [withinLead]

theorem travelOpen_arb (s : State) (c : Corner) : (travelOpen s).arb.get c = (travelOpened s c).1 := by
  rw [travelOpen_eq, PerCorner.get_build]

/-- A PENDING window after a step: one that was PENDING, moved, and is still beyond its lead. -/
theorem mem_travelStep_pending {s : State} {v : Window} (h : v ∈ (travelStep s).sched.pendingWindows) :
    ∃ w ∈ s.sched.pendingWindows, endsByAge s w = false ∧ carriedOver s w v ∧ ¬v.isPassed ∧ (v.lead : Int) < v.pos := by
  obtain ⟨⟨g, hg, hpend, -⟩, -⟩ := travelStep_settled s
  rw [hpend] at h
  obtain ⟨u, hu, rfl⟩ := List.mem_map.1 h
  obtain ⟨hahead, hlead⟩ := (travelOpen_pending s).1 hu
  obtain ⟨w, hw, hends, rfl, hpassed⟩ := mem_travelAhead.1 hahead
  obtain ⟨hkeep, hparent⟩ := hg.keeps (movedWindow s w)
  refine ⟨w, hw, hends, ⟨hkeep, hparent⟩, ?_, ?_⟩ <;> rw [hkeep]
  · exact hpassed
  · exact hlead

/-- A window at an arbiter after a step: one that it held, or one that was PENDING for its corner and is within its lead. -/
theorem mem_travelStep_held {s : State} {c : Corner} {v : Window} (h : v ∈ ((travelStep s).arb.get c).held) :
    ∃ w, endsByAge s w = false ∧ carriedOver s w v ∧ ¬v.isPassed ∧
      (w ∈ (s.arb.get c).held ∨ (w ∈ s.sched.pendingWindows ∧ w.corner = c ∧ v.pos ≤ v.lead)) := by
  obtain ⟨⟨g, hg, -, harb⟩, -⟩ := travelStep_settled s
  rw [harb, mapHeld_held, travelOpen_arb] at h
  obtain ⟨u, hu, rfl⟩ := List.mem_map.1 h
  obtain ⟨hkeep, hparent⟩ := hg.keeps u
  rcases mem_travelOpened hu with hu | hu
  · obtain ⟨w, hw, hends, rfl, hpassed⟩ := mem_travelClosed.1 hu
    refine ⟨w, hends, ⟨hkeep, hparent⟩, ?_, .inl hw⟩
    rw [hkeep]
    exact hpassed
  · obtain ⟨hahead, hlead, hcorner⟩ := mem_travelBatch.1 hu
    obtain ⟨w, hw, hends, rfl, hpassed⟩ := mem_travelAhead.1 hahead
    refine ⟨w, hends, ⟨hkeep, hparent⟩, ?_, .inr ⟨hw, hcorner, ?_⟩⟩ <;> rw [hkeep]
    · exact hpassed
    · exact hlead

theorem mem_windows {s : State} {w : Window} :
    w ∈ s.windows ↔ w ∈ s.sched.pendingWindows ∨ ∃ c, w ∈ (s.arb.get c).held := by
  simp only [State.windows, List.mem_append, List.mem_flatMap, Corner.mem_all, true_and]

/-- No window is made by a step, none of them is PASSED after it, and none that ends by age stays. -/
theorem travelStep_windows {s : State} {v : Window} (h : v ∈ (travelStep s).windows) :
    ∃ w ∈ s.windows, endsByAge s w = false ∧ carriedOver s w v ∧ ¬v.isPassed := by
  rcases mem_windows.1 h with h | ⟨c, h⟩
  · obtain ⟨w, hw, hends, hcarry, hpassed, -⟩ := mem_travelStep_pending h
    exact ⟨w, mem_windows.2 (.inl hw), hends, hcarry, hpassed⟩
  · obtain ⟨w, hends, hcarry, hpassed, hw⟩ := mem_travelStep_held h
    exact ⟨w, mem_windows.2 (hw.symm.imp And.left fun hw => ⟨c, hw⟩), hends, hcarry, hpassed⟩

/-- A PENDING window that stays beyond its lead stays PENDING. -/
theorem travelStep_stays_pending {s : State} {w : Window} (hw : w ∈ s.sched.pendingWindows)
    (hends : endsByAge s w = false) (hlead : (w.lead : Int) < w.pos - stepMm s) :
    ∃ v ∈ (travelStep s).sched.pendingWindows, carriedOver s w v := by
  obtain ⟨⟨g, hg, hpend, -⟩, -⟩ := travelStep_settled s
  have hpassed : ¬(movedWindow s w).isPassed := by
    simp only [Window.isPassed, movedWindow]
    omega
  have hmem : movedWindow s w ∈ (travelOpen s).sched.pendingWindows :=
    (travelOpen_pending s).2 ⟨mem_travelAhead.2 ⟨w, hw, hends, rfl, hpassed⟩, hlead⟩
  exact ⟨g (movedWindow s w), by rw [hpend]; exact List.mem_map_of_mem hmem, hg.keeps _⟩

/-- An open window that is not PASSED stays at its arbiter where no window opens there. -/
theorem travelStep_stays_open {s : State} {c : Corner} {w : Window} (hw : w ∈ (s.arb.get c).held)
    (hends : endsByAge s w = false) (hpassed : ¬(movedWindow s w).isPassed)
    (hquiet : ∀ x ∈ s.sched.pendingWindows, x.corner = c → (x.lead : Int) < x.pos - stepMm s) :
    ∃ v ∈ ((travelStep s).arb.get c).held, carriedOver s w v := by
  obtain ⟨⟨g, hg, -, harb⟩, -⟩ := travelStep_settled s
  have hbatch : travelBatch s c = [] := by
    refine List.eq_nil_iff_forall_not_mem.2 fun v hv => ?_
    obtain ⟨hahead, hlead, hcorner⟩ := mem_travelBatch.1 hv
    obtain ⟨x, hx, -, rfl, -⟩ := mem_travelAhead.1 hahead
    exact absurd (hquiet x hx hcorner) (not_lt.2 hlead)
  have hopened : (travelOpened s c).1 = (travelClosed s c).1 := by rw [travelOpened, hbatch]; rfl
  refine ⟨g (movedWindow s w), ?_, hg.keeps _⟩
  rw [harb, mapHeld_held, travelOpen_arb, hopened]
  exact List.mem_map_of_mem (mem_travelClosed.2 ⟨w, hw, hends, rfl, hpassed⟩)

theorem travelStep_sameOptions (s : State) (c : Corner) : SameOptions (s.arb.get c) ((travelStep s).arb.get c) := by
  obtain ⟨⟨g, -, -, harb⟩, -⟩ := travelStep_settled s
  rw [harb, travelOpen_arb]
  exact ((((mapHeld_sameOptions _ _).trans (removeWindows_sameOptions _ _ _)).trans
    (closePassed_sameOptions _ _)).trans (openAll_sameOptions _ _ _)).trans (mapHeld_sameOptions _ _)

/-- The counts after a step (R51, R60). -/
theorem travelStep_counts (s : State) :
    (travelStep s).sched.msCount = s.sched.msCount + 1 ∧ (travelStep s).sched.admissionNo = s.sched.admissionNo ∧
      (travelStep s).sched.carry = carryAfter s := by
  obtain ⟨-, -, -, hms, hno, hcarry⟩ := travelStep_settled s
  rw [hms, hno, hcarry, travelOpen_eq]
  exact ⟨rfl, rfl, rfl⟩

/-- An arbiter that holds nothing and has no selection due is left as it is by stages 1 to 4. -/
theorem travelClosed_empty {s : State} {c : Corner} (hheld : (s.arb.get c).held = [])
    (hdue : (s.arb.get c).selectionDue = false) : travelClosed s c = (s.arb.get c, []) := by
  generalize harb : s.arb.get c = a at hheld hdue
  obtain ⟨act, st, wt, oc, sd, ms, r1, r2⟩ := a
  simp only [Arbiter.held, List.append_eq_nil_iff, List.map_eq_nil_iff, Option.toList_eq_nil_iff] at hheld hdue
  obtain ⟨rfl, rfl, rfl⟩ := hheld
  subst hdue
  simp [travelClosed, travelAged, harb, mapHeld, removeWindows, closePassed, heldCloses, sortBy]

/-- With an empty table and store a step advances the ms count and the carry and nothing else. -/
theorem travelStep_empty {s : State} (hevents : s.sched.events = []) (hwindows : s.windows = [])
    (hdue : ∀ c, (s.arb.get c).selectionDue = false) :
    travelStep s = { s with sched := { s.sched with msCount := s.sched.msCount + 1, carry := carryAfter s } } := by
  have hnone : ∀ w, w ∉ s.windows := fun w hw => by simp [hwindows] at hw
  have hpend : s.sched.pendingWindows = [] :=
    List.eq_nil_iff_forall_not_mem.2 fun w hw => hnone w (mem_windows.2 (.inl hw))
  have hheld : ∀ c, (s.arb.get c).held = [] := fun c =>
    List.eq_nil_iff_forall_not_mem.2 fun w hw => hnone w (mem_windows.2 (.inr ⟨c, hw⟩))
  have hclosed : ∀ c, travelClosed s c = (s.arb.get c, []) := fun c => travelClosed_empty (hheld c) (hdue c)
  have hlive : travelLive s = [] := by simp [travelLive, hpend]
  have hahead : travelAhead s = [] := by simp [travelAhead, hlive]
  have hopened : ∀ c, travelOpened s c = (s.arb.get c, []) := fun c => by
    simp [travelOpened, travelBatch, hahead, sortBy, openAll, hclosed]
  have hretired : travelRetired s = [] := by simp [travelRetired, hlive, hclosed, hopened]
  have hopen : travelOpen s =
      { s with sched := { s.sched with msCount := s.sched.msCount + 1, carry := carryAfter s } } := by
    rw [travelOpen_eq]
    simp [hopened, hretired, hahead, hwindows, expiring, hevents, hpend]
  rw [travelStep_eq, settleStage, hopen]
  simp [hevents]

/-- Settles O18: stages 1 to 5 are `openedState` and stage 6 the fold of `settleEvent`; the rest is where the windows of
the step come from and what it leaves of the counts. -/
theorem travelStepMovesWindows : Obligations.TravelStepMovesWindows := by
  refine ⟨fun s hheld => ⟨travelBatch s, travelOpen s, travelStep s, travelOpen_openedState s, rfl,
    whenRunning_running hheld, fun w hw => travelStep_stays_pending hw, fun c w hw => travelStep_stays_open hw⟩,
    fun s hheld => ⟨travelStep s, whenRunning_running hheld, ?_⟩, fun s hheld hevents hwindows hdue => ?_⟩
  · obtain ⟨hms, hno, hcarry⟩ := travelStep_counts s
    refine ⟨hms, hno, hcarry, fun v hv => ?_, fun v hv => ?_, fun v hv => ?_, ?_, travelStep_sameOptions s,
      travelStep_frame s⟩
    · obtain ⟨w, hw, -, hcarry, -⟩ := travelStep_windows hv
      exact ⟨w, hw, hcarry⟩
    · obtain ⟨w, -, -, -, hpassed⟩ := travelStep_windows hv
      exact hpassed
    · obtain ⟨w, -, -, -, -, hlead⟩ := mem_travelStep_pending hv
      exact hlead
    · obtain ⟨-, ⟨posted, hposted, -⟩, -⟩ := travelStep_settled s
      refine ⟨(expiring s).map (recordOf .expired (s.sched.msCount + 1)) ++ posted, hposted.trans ?_⟩
      rw [travelOpen_eq, List.append_assoc]
  · exact (whenRunning_running hheld).trans (congrArg _ (travelStep_empty hevents hwindows hdue))

/-! ## Ends by age (R60 to R62, R98) -/

/-- After the step no event and no window is left that ended by age, and the events that did have posted first. -/
theorem travelStep_ages (s : State) :
    (∃ later,
      (travelStep s).sched.completions =
        s.sched.completions ++ (expiring s).map (recordOf .expired (s.sched.msCount + 1)) ++ later ∧
      ∀ r ∈ later, ∃ e ∈ s.sched.events, e.tag = r.tag ∧ ¬expiresNow s e.admissionMs) ∧
    (∀ e ∈ expiring s, e.tag ∉ (travelStep s).sched.events.map Event.tag ∧
      ∀ w ∈ (travelStep s).windows, w.parent ≠ .event e.tag) ∧
    ∀ v ∈ (travelStep s).windows, ∃ w ∈ s.windows,
      carriedOver s w v ∧ (w.parent = .orphan → ¬expiresNow s w.admissionMs) := by
  obtain ⟨-, ⟨posted, hposted, hfrom⟩, htags, -⟩ := travelStep_settled s
  have hleft : ∀ tag ∈ (travelOpen s).sched.events.map Event.tag,
      ∃ e ∈ s.sched.events, e.tag = tag ∧ ∀ x ∈ expiring s, x.tag ≠ tag := by
    intro tag htag
    rw [travelOpen_eq] at htag
    simp only [List.map_map] at htag
    obtain ⟨e, he, rfl⟩ := List.mem_map.1 htag
    obtain ⟨hmem, hall⟩ := List.mem_filter.1 he
    exact ⟨e, hmem, rfl, fun x hx => (bne_iff_ne.1 (List.all_eq_true.1 hall x hx)).symm⟩
  have hstays : ∀ v ∈ (travelStep s).windows, ∃ w ∈ s.windows, carriedOver s w v ∧ endsByAge s w = false := fun v hv => by
    obtain ⟨w, hw, hends, hcarry, -⟩ := travelStep_windows hv
    exact ⟨w, hw, hcarry, hends⟩
  refine ⟨⟨posted, ?_, fun r hr => ?_⟩, fun e he => ⟨fun htag => ?_, fun v hv hparent => ?_⟩, fun v hv => ?_⟩
  · rw [hposted, travelOpen_eq]
  · obtain ⟨x, hx, htag⟩ := hfrom r hr
    obtain ⟨e, he, heq, hnot⟩ := hleft x.tag (List.mem_map_of_mem hx)
    refine ⟨e, he, heq.trans htag.symm, fun hexp => hnot e ?_ heq⟩
    exact List.mem_filter.2 ⟨he, decide_eq_true hexp⟩
  · obtain ⟨-, -, -, hnot⟩ := hleft e.tag (htags htag)
    exact hnot e he rfl
  · obtain ⟨w, -, ⟨-, hsame⟩, hends⟩ := hstays v hv
    rw [hparent] at hsame
    have hof : ofSome (expiring s) w = true :=
      List.any_eq_true.2 ⟨e, he, by simpa [ofEvent] using (hsame.resolve_right nofun).symm⟩
    rw [endsByAge_eq, hof] at hends
    cases hends
  · obtain ⟨w, hw, hcarry, hends⟩ := hstays v hv
    refine ⟨w, hw, hcarry, fun horphan hexp => ?_⟩
    rw [endsByAge_eq] at hends
    rw [Bool.or_eq_false_iff] at hends
    simp only [isOrphan, horphan, decide_eq_true hexp] at hends
    exact absurd hends.2 (by decide)

theorem eventDue_next (s : State) (e : Event) :
    eventDue s.cal.working (s.sched.msCount + 1) e = decide (expiresNow s e.admissionMs) := rfl

theorem orphanDue_next (s : State) (w : Window) :
    orphanDue s.cal.working (s.sched.msCount + 1) w = (isOrphan w && decide (expiresNow s w.admissionMs)) := rfl

/-- Settles O19: each row is the travel step where the age is at hand, and what ends by age is `travelStep_ages`. -/
theorem ageExpiryEndsEventsAndOrphans : Obligations.AgeExpiryEndsEventsAndOrphans := by
  intro s hheld
  refine ⟨fun e he hexp => ⟨travelStep s, whenOccurs_at hheld ?_, whenRunning_running hheld, travelStep_ages s⟩,
    fun tag hnot => whenOccurs_not ?_, fun w hw horphan hexp => ⟨travelStep s, whenOccurs_at hheld ?_,
      whenRunning_running hheld, travelStep_ages s⟩, fun c hnot => whenOccurs_not ?_⟩
  · exact List.any_eq_true.2 ⟨e, he, by rw [eventDue_next, decide_eq_true hexp, beq_self_eq_true]; rfl⟩
  · refine List.any_eq_false.2 fun e he => ?_
    rw [eventDue_next, Bool.and_eq_true, beq_iff_eq, decide_eq_true_iff, not_and]
    exact hnot e he
  · exact List.any_eq_true.2 ⟨w, hw, by rw [orphanDue_next, decide_eq_true hexp, beq_self_eq_true, isOrphan, horphan]; rfl⟩
  · refine List.any_eq_false.2 fun w hw => ?_
    simp only [orphanDue_next, isOrphan, Bool.and_eq_true, beq_iff_eq, decide_eq_true_iff, not_and]
    exact fun hcorner horphan => hnot w hw horphan hcorner

end Sys2Proof.Machine
end

section
/-! PROOFS. The laws of arbitration, tags and window store (R45, R46, R53, R57, R71, R84, R97), kept by every change. -/

namespace Sys2Proof.Machine

open Sys2Proof

/-! ## Arbitration -/

theorem travelStep_arb_legal {s : State} {c : Corner} (h : ArbiterLegal (s.arb.get c)) :
    ArbiterLegal ((travelStep s).arb.get c) := by
  obtain ⟨⟨g, hg, -, harb⟩, -⟩ := travelStep_settled s
  rw [harb, travelOpen_arb]
  have hmoved : ArbiterLegal (mapHeld (movedWindow s) (s.arb.get c)) := mapHeld_legal (f := movedWindow s) (fun _ => rfl) h
  have hsame : ∀ w, (g w).severity = w.severity := fun w => by rw [(hg.keeps w).1]
  exact mapHeld_legal hsame (openAll_legal _ _ (closePassed_legal _ (removeWindows_awaits _ hmoved.awaits)))

theorem ArbitersLegal_change {s t : State} (hchange : Change s t) (h : ArbitersLegal s) : ArbitersLegal t := by
  cases hchange
  case port | notices | stage | bodyAge | body | admitted | collect | clearFaults | cornerPeriod | released
    | pinWhileHeld | drvenFall | drvenRise | standby | reason | stoppingMs | active | returned | resumed
    | loadEnd | beginDownload | acceptSegment | abortDownload | beginStore | storeEnd => exact h
  case finishDownload data _ _ =>
    obtain ⟨k, q, heq, -⟩ := finishDownload_frame 9 data s
    rw [heq]
    exact h
  case reset cause held =>
    intro c
    have hget : (resetBlocks cause { s with held := held }).arb.get c = Arbiter.reset := PerCorner.get_replicate _ c
    rw [hget]
    simp [ArbiterLegal, Arbiter.reset]
  case travel => exact fun c => travelStep_arb_legal (h c)
  case flush | limp | stopping =>
    intro c
    simp only [enterLimp, enterStopping, State.setSup_arb, flush_arb, PerCorner.get_map]
    exact clearArbitration_legal _
  case cancel e _ =>
    intro c
    have hget : (cancel e s).arb.get c = removeWindows (ofEvent e.tag) false (s.arb.get c) := PerCorner.get_map _ _ c
    rw [hget]
    exact removeWindows_legal _ (h c)
  case options o =>
    intro c
    rw [PerCorner.get_build]
    exact h c

/-- Settles O58: each change runs operations of the arbiters that keep the structure of R84. -/
theorem everyStepKeepsTheArbitration : Obligations.EveryStepKeepsTheArbitration :=
  fun _ _ hs hrun => step_keeps (fun _ _ => ArbitersLegal_change) hrun hs

/-! ## What an admission has checked -/

/-- A PREVIEW_EVENT passes every check of R47. -/
theorem admissionCheck_ok {s : State} {e : EventFields} {t : TakenEvent} (h : admissionCheck s e = .ok t) :
    s.sup.part = .active ∧ e.tag.toNat < 24 ∧ s.sched.tagHeld e.tag.toNat = false ∧ takeEvent e = some t := by
  unfold admissionCheck at h
  repeat' split at h
  case h_2.isFalse.isFalse _ _ hactive htag hheld _ _ htake _ _ =>
    cases h
    exact ⟨not_not.1 hactive, not_le.1 htag, by simpa using hheld, htake⟩
  all_goals cases h

/-- What check 6 and the clamps take of the fields (R48). -/
theorem takeEvent_some {e : EventFields} {t : TakenEvent} (h : takeEvent e = some t) :
    t.tag = e.tag.toNat ∧ t.cSoft ≤ 4000 ∧ t.cFirm ≤ 4000 := by
  unfold takeEvent at h
  repeat' split at h
  case h_1.isTrue =>
    cases h
    exact ⟨rfl, Nat.min_le_left _ _, Nat.min_le_left _ _⟩
  all_goals cases h

/-! ## Tags -/

/-- The tag law of a table's and a list's tags. -/
def TagLists (table list : List Nat) : Prop := (table ++ list).Nodup ∧ ∀ tag ∈ table ++ list, tag < 24

theorem TagsLegal_iff (s : State) :
    TagsLegal s ↔ TagLists (s.sched.events.map Event.tag) (s.sched.completions.map Completion.tag) := by
  simp only [TagsLegal, TagLists, List.mem_append, List.mem_map, or_imp, forall_and, forall_exists_index, and_imp,
    forall_apply_eq_imp_iff₂]

/-- Postings move tags of the table to the list: those posted leave the table, and no other tag joins it (R97). -/
theorem TagLists.posted {table list left gone : List Nat} (h : TagLists table list) (hleft : left.Sublist table)
    (hgone : gone.Sublist table) (hdisjoint : ∀ tag ∈ left, tag ∉ gone) : TagLists left (list ++ gone) := by
  obtain ⟨hnodup, hlt⟩ := h
  obtain ⟨htable, hlist, hapart⟩ := List.nodup_append.1 hnodup
  refine ⟨List.nodup_append.2 ⟨htable.sublist hleft, List.nodup_append.2 ⟨hlist, htable.sublist hgone, ?_⟩, ?_⟩, ?_⟩
  · exact fun x hx y hy => (hapart y (hgone.subset hy) x hx).symm
  · intro x hx y hy hxy
    rcases List.mem_append.1 hy with hy | hy
    · exact hapart x (hleft.subset hx) y hy hxy
    · exact hdisjoint x hx (hxy ▸ hy)
  · intro tag htag
    refine hlt tag ?_
    rcases List.mem_append.1 htag with htag | htag
    · exact List.mem_append_left _ (hleft.subset htag)
    · rcases List.mem_append.1 htag with htag | htag
      · exact List.mem_append_right _ htag
      · exact List.mem_append_left _ (hgone.subset htag)

theorem recordOf_tags (cause : EndCause) (now : Count) (es : List Event) :
    (es.map (recordOf cause now)).map Completion.tag = es.map Event.tag := by
  simp [recordOf]

/-- A posting of an event of the table keeps the tag law. -/
theorem post_tags {cause : EndCause} {e : Event} {sch : Scheduler}
    (h : TagLists (sch.events.map Event.tag) (sch.completions.map Completion.tag))
    (he : e.tag ∈ sch.events.map Event.tag) :
    TagLists ((post cause e sch).events.map Event.tag) ((post cause e sch).completions.map Completion.tag) := by
  have hposted := h.posted (left := (sch.events.filter fun x => x.tag != e.tag).map Event.tag) (gone := [e.tag])
    (List.Sublist.map _ List.filter_sublist) (List.singleton_sublist.2 he) (by
      rintro tag htag
      obtain ⟨x, hx, rfl⟩ := List.mem_map.1 htag
      simpa using (List.mem_filter.1 hx).2)
  simpa [post, recordOf] using hposted

theorem settleEvent_tags {s : State} {e : Event} (h : TagsLegal s) (he : e.tag ∈ s.sched.events.map Event.tag) :
    TagsLegal (settleEvent s e) ∧
      ∀ tag ∈ s.sched.events.map Event.tag, tag ≠ e.tag → tag ∈ (settleEvent s e).sched.events.map Event.tag := by
  have hkept : ∀ (cause : EndCause) (sch : Scheduler), sch.events = s.sched.events → ∀ tag ∈ s.sched.events.map Event.tag,
      tag ≠ e.tag → tag ∈ (post cause e sch).events.map Event.tag := by
    intro cause sch hsame tag htag hne
    obtain ⟨x, hx, rfl⟩ := List.mem_map.1 htag
    exact List.mem_map_of_mem (List.mem_filter.2 ⟨hsame ▸ hx, bne_iff_ne.2 hne⟩)
  rw [TagsLegal_iff] at h ⊢
  rcases settleEvent_cases s e with heq | ⟨-, heq⟩ | ⟨-, heq⟩ | heq <;> rw [heq]
  · exact ⟨h, fun _ htag _ => htag⟩
  · exact ⟨post_tags h he, hkept .normal s.sched rfl⟩
  · exact ⟨post_tags (cause := .normal) (e := e) h he, hkept .normal _ rfl⟩
  · rw [State.setSched_sched, forceLate_tags]
    exact ⟨h, fun _ htag _ => htag⟩

/-- The settlement takes each event of the table once. -/
theorem settleEvents_tags {es : List Event} {s : State} (h : TagsLegal s) (hnodup : (es.map Event.tag).Nodup)
    (hes : ∀ e ∈ es, e.tag ∈ s.sched.events.map Event.tag) : TagsLegal (es.foldl settleEvent s) := by
  induction es generalizing s with
  | nil => exact h
  | cons e rest ih =>
    obtain ⟨hnew, hnodup'⟩ := List.nodup_cons.1 hnodup
    obtain ⟨hone, hkept⟩ := settleEvent_tags h (hes e (by simp))
    refine ih hone hnodup' fun x hx => hkept _ (hes x (by simp [hx])) fun heq => hnew ?_
    rw [← heq]
    exact List.mem_map_of_mem hx

theorem countedEvent_tags (rs : List Retirement) (es : List Event) :
    (es.map (countedEvent rs)).map Event.tag = es.map Event.tag := by
  rw [List.map_map]
  rfl

theorem travelOpen_tags {s : State} (h : TagsLegal s) : TagsLegal (travelOpen s) := by
  rw [TagsLegal_iff] at h ⊢
  rw [travelOpen_eq]
  simp only [List.map_append, countedEvent_tags, recordOf_tags]
  refine h.posted (List.Sublist.map _ List.filter_sublist) (List.Sublist.map _ List.filter_sublist) fun tag htag hgone => ?_
  obtain ⟨e, he, rfl⟩ := List.mem_map.1 htag
  obtain ⟨x, hx, heq⟩ := List.mem_map.1 hgone
  exact bne_iff_ne.1 (List.all_eq_true.1 (List.mem_filter.1 he).2 x hx) heq.symm

theorem travelStep_tags {s : State} (h : TagsLegal s) : TagsLegal (travelStep s) := by
  have hopen := travelOpen_tags h
  exact settleEvents_tags hopen (List.nodup_append.1 hopen.1).1 fun e he => List.mem_map_of_mem he

theorem flush_tags {s t : State} (h : TagsLegal s) (ht : t.sched = (flush s).sched) : TagsLegal t := by
  rw [TagsLegal_iff] at h ⊢
  rw [ht]
  have hposted := h.posted (left := []) (gone := s.sched.events.map Event.tag) (List.nil_sublist _)
    (List.Sublist.refl _) (by simp)
  rw [← recordOf_tags .flushed s.sched.msCount, ← List.map_append] at hposted
  exact hposted

/-- A cancellation: its windows leave the store, then the event posts (R68). -/
theorem cancel_sched (e : Event) (s : State) :
    (cancel e s).sched = post .cancelled e { s.sched with
      pendingWindows := s.sched.pendingWindows.filter fun w => !ofEvent e.tag w } := by
  have horphan : (((s.windows.filter (ofEvent e.tag)).map fun w => ({ win := w, outcome := .cancelled } : Retirement)).filter
      fun r => isOrphan r.win) = [] := by
    refine List.filter_eq_nil_iff.2 fun r hr => ?_
    obtain ⟨w, hw, rfl⟩ := List.mem_map.1 hr
    have hof := (List.mem_filter.1 hw).2
    simp only [ofEvent, beq_iff_eq] at hof
    simp [isOrphan, hof]
  have hsched : (retireWhere (ofEvent e.tag) .cancelled false s).sched = { s.sched with
      pendingWindows := s.sched.pendingWindows.filter fun w => !ofEvent e.tag w } := by
    obtain ⟨h1, h2, h3, h4, h5, -⟩ := accountAll_keeps
      ((s.windows.filter (ofEvent e.tag)).map fun w => { win := w, outcome := .cancelled })
      { s.sched with pendingWindows := s.sched.pendingWindows.filter fun w => !ofEvent e.tag w }
    have hev := accountAll_cancelled (s.windows.filter (ofEvent e.tag)) .cancelled (.inl rfl)
      { s.sched with pendingWindows := s.sched.pendingWindows.filter fun w => !ofEvent e.tag w }
    have hor := accountAll_orphanCount
      ((s.windows.filter (ofEvent e.tag)).map fun w => { win := w, outcome := .cancelled })
      { s.sched with pendingWindows := s.sched.pendingWindows.filter fun w => !ofEvent e.tag w }
    rw [horphan] at hor
    simp only [retireWhere]
    generalize accountAll _ _ = sch at *
    obtain ⟨ev, pe, co, orph, ca, ms, no⟩ := sch
    simp_all
  simp only [cancel, State.setSched_sched, hsched]

theorem TagsLegal_change {s t : State} (hchange : Change s t) (h : TagsLegal s) : TagsLegal t := by
  cases hchange
  case port | notices | stage | bodyAge | body | clearFaults | cornerPeriod | released | options
    | pinWhileHeld | drvenFall | drvenRise | standby | reason | stoppingMs | active | returned | resumed
    | loadEnd | beginDownload | acceptSegment | abortDownload | beginStore | storeEnd => exact h
  case finishDownload data _ _ =>
    obtain ⟨k, q, heq, -⟩ := finishDownload_frame 9 data s
    rw [heq]
    exact h
  case reset => simp [TagsLegal, resetBlocks, State.reset, Scheduler.reset]
  case travel => exact travelStep_tags h
  case flush | limp | stopping => exact flush_tags h rfl
  case admitted e taken hcheck =>
    obtain ⟨-, htag, hfree, htake⟩ := admissionCheck_ok hcheck
    obtain ⟨heq, -⟩ := takeEvent_some htake
    rw [TagsLegal_iff] at h ⊢
    simp only [Scheduler.tagHeld, Scheduler.tagInTable, Scheduler.tagInList, Bool.or_eq_false_iff, List.any_eq_false,
      beq_iff_eq, ← heq] at hfree htag
    have hnew : taken.tag ∉ s.sched.events.map Event.tag ++ s.sched.completions.map Completion.tag := by
      simpa using hfree
    have hperm : (((admitEvent s taken).sched.events.map Event.tag) ++ (s.sched.completions.map Completion.tag)).Perm
        (taken.tag :: (s.sched.events.map Event.tag ++ s.sched.completions.map Completion.tag)) := by
      simp [admitEvent, newEvent]
    refine ⟨hperm.nodup_iff.2 (List.nodup_cons.2 ⟨hnew, h.1⟩), fun tag hmem => ?_⟩
    rcases List.mem_cons.1 (hperm.mem_iff.1 hmem) with rfl | hmem
    · exact htag
    · exact h.2 tag hmem
  case cancel e he =>
    rw [TagsLegal_iff] at h ⊢
    rw [cancel_sched]
    exact post_tags h (List.mem_map_of_mem he)
  case collect n =>
    rw [TagsLegal_iff] at h ⊢
    have hsub : (s.sched.events.map Event.tag ++ (s.sched.completions.drop n).map Completion.tag).Sublist
        (s.sched.events.map Event.tag ++ s.sched.completions.map Completion.tag) :=
      (List.Sublist.refl _).append ((List.drop_sublist n _).map _)
    exact ⟨h.1.sublist hsub, fun tag htag => h.2 tag (hsub.subset htag)⟩

/-- Settles O56: a tag is taken where no event and no record holds it, and a posting moves it from the table to the list. -/
theorem everyStepKeepsTheTagLaw : Obligations.EveryStepKeepsTheTagLaw :=
  fun _ _ hs hrun => step_keeps (fun _ _ => TagsLegal_change) hrun hs

end Sys2Proof.Machine
end

section
/-! PROOFS. The window store against the event table and the orphan count (R46, R57, R71), and within reach (R53), kept by
every change. -/

namespace Sys2Proof.Machine

open Sys2Proof

/-! ## The store against the table -/

/-- The law of the store as tags of the table, an orphan count and a list of windows. -/
def StoreLegal (tags : List Nat) (orphans : Nat) (ws : List Window) : Prop :=
  (∀ w ∈ ws, ∀ tag, w.parent = .event tag → tag ∈ tags) ∧ orphans = (ws.filter isOrphan).length ∧ orphans ≤ 32

/-- The windows of an arbiter are windows of its corner. -/
def CornersLegal (s : State) : Prop := ∀ c, ∀ w ∈ (s.arb.get c).held, w.corner = c

theorem WindowsLegal_iff (s : State) :
    WindowsLegal s ↔
      StoreLegal (s.sched.events.map Event.tag) s.sched.orphanCount s.windows ∧ CornersLegal s := by
  simp only [WindowsLegal, StoreLegal, CornersLegal, List.mem_map]
  tauto

theorem StoreLegal.perm {tags : List Nat} {n : Nat} {ws vs : List Window} (h : StoreLegal tags n ws) (hp : ws.Perm vs) :
    StoreLegal tags n vs :=
  ⟨fun w hw => h.1 w (hp.mem_iff.2 hw), h.2.1.trans (hp.filter isOrphan).length_eq, h.2.2⟩

/-- Windows leave the store and the orphans among them lower the count (R57). -/
theorem StoreLegal.retired {tags : List Nat} {n : Nat} {ws rs : List Window} (h : StoreLegal tags n (ws ++ rs)) :
    StoreLegal tags (n - (rs.filter isOrphan).length) ws := by
  obtain ⟨htags, hcount, hle⟩ := h
  rw [List.filter_append, List.length_append] at hcount
  exact ⟨fun w hw => htags w (List.mem_append_left _ hw), by omega, by omega⟩

/-- Only windows of events whose tag stays need the table. -/
theorem StoreLegal.table {tags left : List Nat} {n : Nat} {ws : List Window} (h : StoreLegal tags n ws)
    (hleft : ∀ w ∈ ws, ∀ tag, w.parent = .event tag → tag ∈ tags → tag ∈ left) : StoreLegal left n ws :=
  ⟨fun w hw tag hp => hleft w hw tag hp (h.1 w hw tag hp), h.2⟩

theorem StoreLegal.empty (tags : List Nat) : StoreLegal tags 0 [] := ⟨by simp, rfl, by decide⟩

/-! ## A travel step and the store -/

theorem count_windows (s : State) (v : Window) :
    s.windows.count v = s.sched.pendingWindows.count v
      + ((s.arb.get .fl).held.count v + (s.arb.get .fr).held.count v + (s.arb.get .rl).held.count v
        + (s.arb.get .rr).held.count v) := by
  simp only [State.windows, Corner.all, List.flatMap_cons, List.flatMap_nil, List.count_append, List.count_nil]
  omega

/-- The batches of the four corners are the PENDING windows within their lead. -/
theorem count_batches (s : State) (v : Window) :
    (travelAhead s).count v = ((travelAhead s).filter fun w => !withinLead w).count v
      + ((travelBatch s .fl).count v + (travelBatch s .fr).count v + (travelBatch s .rl).count v
        + (travelBatch s .rr).count v) := by
  have hbatch : ∀ c, (travelBatch s c).count v = if withinLead v && v.corner == c then (travelAhead s).count v else 0 := by
    intro c
    rw [travelBatch, (sortBy_perm _ _).count_eq]
    split
    case isTrue h => exact List.count_filter h
    case isFalse h => exact List.count_eq_zero.2 fun hmem => h (List.mem_filter.1 hmem).2
  have hrest : ((travelAhead s).filter fun w => !withinLead w).count v =
      if withinLead v then 0 else (travelAhead s).count v := by
    split
    case isTrue h => exact List.count_eq_zero.2 fun hmem => by simpa [h] using (List.mem_filter.1 hmem).2
    case isFalse h => exact List.count_filter (by simpa using h)
  rw [hrest, hbatch, hbatch, hbatch, hbatch]
  cases withinLead v <;> cases v.corner <;> simp

/-- The moved windows that do not end by age are those of the store after stages 1 to 5 and those retired on the way. -/
theorem travelOpen_windows_perm (s : State) :
    ((s.windows.map (movedWindow s)).filter fun w => !endsByAge s w).Perm
      ((travelOpen s).windows ++ (travelRetired s).map Retirement.win) := by
  have haged : ∀ c, (travelAged s c).held = ((s.arb.get c).held.map (movedWindow s)).filter fun w => !endsByAge s w := by
    intro c
    rw [travelAged, removeWindows_held, mapHeld_held]
  have hmoved : (s.windows.map (movedWindow s)).filter (fun w => !endsByAge s w) =
      travelLive s ++ Corner.all.flatMap fun c => (travelAged s c).held := by
    simp only [State.windows, travelLive, Corner.all, List.flatMap_cons, List.flatMap_nil, List.map_append,
      List.filter_append, haged, List.append_nil]
  have hwindows : (travelOpen s).windows = ((travelAhead s).filter fun w => !withinLead w)
      ++ Corner.all.flatMap fun c => (travelOpened s c).1.held := by
    rw [travelOpen_eq]
    simp only [State.windows, PerCorner.get_build]
  have hretired : (travelRetired s).map Retirement.win = (travelLive s).filter windowPassed
      ++ Corner.all.flatMap (fun c => (travelClosed s c).2.map Retirement.win)
      ++ Corner.all.flatMap fun c => (travelOpened s c).2.map Retirement.win := by
    simp only [travelRetired, List.map_append, List.map_map, Corner.all, List.flatMap_cons, List.flatMap_nil,
      List.append_nil]
    congr 2
    exact List.map_id' _
  rw [hmoved, hwindows, hretired]
  refine List.perm_iff_count.2 fun v => ?_
  have hlive : (travelLive s).count v =
      (travelAhead s).count v + ((travelLive s).filter windowPassed).count v := by
    have hsplit := (List.filter_append_perm windowPassed (travelLive s)).count_eq v
    rw [List.count_append] at hsplit
    rw [travelAhead]
    omega
  have hclose : ∀ c, (travelAged s c).held.count v =
      (travelClosed s c).1.held.count v + ((travelClosed s c).2.map Retirement.win).count v := by
    intro c
    obtain ⟨hkept, hgone⟩ := closePassed_perm s.sched.admissionNo (travelAged s c)
    have hsplit := (List.filter_append_perm windowPassed (travelAged s c).held).count_eq v
    rw [List.count_append] at hsplit
    rw [travelClosed, hkept.count_eq, hgone.count_eq]
    omega
  have hopen : ∀ c, (travelClosed s c).1.held.count v + (travelBatch s c).count v =
      (travelOpened s c).1.held.count v + ((travelOpened s c).2.map Retirement.win).count v := by
    intro c
    have hperm := (openAll_perm (modeRow s.cal.working s.modes.inForce).preview (travelBatch s c)
      (travelClosed s c).1).count_eq v
    rw [List.count_append, List.count_append] at hperm
    exact hperm.symm
  have hbatch := count_batches s v
  simp only [Corner.all, List.flatMap_cons, List.flatMap_nil, List.append_nil, List.count_append]
  have h1 := hclose .fl
  have h2 := hclose .fr
  have h3 := hclose .rl
  have h4 := hclose .rr
  have k1 := hopen .fl
  have k2 := hopen .fr
  have k3 := hopen .rl
  have k4 := hopen .rr
  omega

/-- What ends by age leaves the store in line with the table that the expiring events have left (R61, R62). -/
theorem StoreLegal.aged {s : State} (h : StoreLegal (s.sched.events.map Event.tag) s.sched.orphanCount s.windows) :
    StoreLegal ((s.sched.events.filter fun e => (expiring s).all fun x => e.tag != x.tag).map Event.tag)
      (s.sched.orphanCount - (s.windows.filter fun w => isOrphan w && decide (expiresNow s w.admissionMs)).length)
      ((s.windows.map (movedWindow s)).filter fun w => !endsByAge s w) := by
  have hsplit : (s.windows.filter (fun w => !endsByAge s w) ++ s.windows.filter (endsByAge s)).Perm s.windows :=
    List.perm_append_comm.trans (List.filter_append_perm _ _)
  have hended : ((s.windows.filter (endsByAge s)).filter isOrphan).length =
      (s.windows.filter fun w => isOrphan w && decide (expiresNow s w.admissionMs)).length := by
    rw [List.filter_filter]
    refine congrArg _ (List.filter_congr fun w _ => ?_)
    cases hw : w.parent with
    | orphan => simp [endsByAge_eq, ofSome, ofEvent, isOrphan, hw]
    | event tag =>
      have hparent : (Parent.event tag == Parent.orphan) = false := rfl
      simp [isOrphan, hw, hparent]
  have hleft := (h.perm hsplit.symm).retired
  rw [hended] at hleft
  have hmoved : ((s.windows.map (movedWindow s)).filter fun w => !endsByAge s w) =
      (s.windows.filter fun w => !endsByAge s w).map (movedWindow s) := by
    rw [List.filter_map]
    rfl
  rw [hmoved]
  obtain ⟨htags, hcount, hle⟩ := hleft
  refine ⟨fun v hv tag hparent => ?_, hcount.trans ?_, hle⟩
  · obtain ⟨w, hw, rfl⟩ := List.mem_map.1 hv
    obtain ⟨e, he, rfl⟩ := List.mem_map.1 (htags w hw tag hparent)
    refine List.mem_map_of_mem (List.mem_filter.2 ⟨he, List.all_eq_true.2 fun x hx => bne_iff_ne.2 fun heq => ?_⟩)
    have hof : ofSome (expiring s) w = true :=
      List.any_eq_true.2 ⟨x, hx, by rw [ofEvent, ← heq]; exact beq_iff_eq.2 hparent⟩
    have hends := (List.mem_filter.1 hw).2
    rw [endsByAge_eq, hof] at hends
    cases hends
  · rw [List.filter_map, List.length_map]
    rfl

theorem travelOpen_store {s : State} (h : StoreLegal (s.sched.events.map Event.tag) s.sched.orphanCount s.windows) :
    StoreLegal ((travelOpen s).sched.events.map Event.tag) (travelOpen s).sched.orphanCount (travelOpen s).windows := by
  have hretired := (h.aged.perm (travelOpen_windows_perm s)).retired
  rw [List.filter_map, List.length_map] at hretired
  have hevents : (travelOpen s).sched.events.map Event.tag =
      (s.sched.events.filter fun e => (expiring s).all fun x => e.tag != x.tag).map Event.tag := by
    rw [travelOpen_eq, countedEvent_tags]
  have hcount : (travelOpen s).sched.orphanCount =
      s.sched.orphanCount - (s.windows.filter fun w => isOrphan w && decide (expiresNow s w.admissionMs)).length
        - ((travelRetired s).filter fun r => isOrphan r.win).length := by rw [travelOpen_eq]
  rw [hevents, hcount]
  exact hretired

/-- A posting of an event without live windows leaves the store in line (R63). -/
theorem post_store {cause : EndCause} {e : Event} {sch : Scheduler} {n : Nat} {ws : List Window}
    (h : StoreLegal (sch.events.map Event.tag) n ws) (hlive : ∀ w ∈ ws, w.parent ≠ .event e.tag) :
    StoreLegal ((post cause e sch).events.map Event.tag) n ws := by
  refine h.table fun w hw tag hparent htag => ?_
  obtain ⟨x, hx, rfl⟩ := List.mem_map.1 htag
  exact List.mem_map_of_mem (List.mem_filter.2 ⟨hx, bne_iff_ne.2 fun heq => hlive w hw (by rw [hparent, heq])⟩)

/-- The live windows of an event that become orphans raise the count by their number (R64). -/
theorem orphans_of_orphaned (tag : Nat) (ws : List Window) :
    ((ws.map (orphan tag)).filter isOrphan).length = (ws.filter isOrphan).length + (ws.filter (ofEvent tag)).length := by
  induction ws with
  | nil => rfl
  | cons w rest ih =>
    cases hp : w.parent with
    | orphan => simp [orphan, ofEvent, isOrphan, hp] at ih ⊢; omega
    | event t =>
      by_cases ht : t = tag
      · simp [orphan, ofEvent, isOrphan, hp, ht] at ih ⊢; omega
      · simp [orphan, ofEvent, isOrphan, hp, ht] at ih ⊢; omega

theorem settleEvent_store {s : State} {e : Event}
    (h : StoreLegal (s.sched.events.map Event.tag) s.sched.orphanCount s.windows) :
    StoreLegal ((settleEvent s e).sched.events.map Event.tag) (settleEvent s e).sched.orphanCount
      (settleEvent s e).windows := by
  have hlive : ∀ w ∈ s.windows, w.parent = .event e.tag → w ∈ s.liveWindows e.tag := fun w hw hp =>
    List.mem_filter.2 ⟨hw, beq_iff_eq.2 hp⟩
  rcases settleEvent_cases s e with heq | ⟨hnone, heq⟩ | ⟨hroom, heq⟩ | heq <;> rw [heq]
  · exact h
  · refine post_store (sch := s.sched) h fun w hw hp => ?_
    have := hlive w hw hp
    simp [hnone] at this
  · rw [postEarly_windows]
    have hnew : StoreLegal (s.sched.events.map Event.tag) (s.sched.orphanCount + (s.liveWindows e.tag).length)
        (s.windows.map (orphan e.tag)) := by
      obtain ⟨htags, hcount, hle⟩ := h
      refine ⟨fun v hv tag hparent => ?_, by rw [orphans_of_orphaned, ← hcount]; rfl, by
        simp only [orphanLimit] at hroom; omega⟩
      obtain ⟨w, hw, rfl⟩ := List.mem_map.1 hv
      rcases orphan_orphansOnly e.tag w with hsame | hor
      · exact htags w hw tag (hsame ▸ hparent)
      · rw [hor] at hparent
        cases hparent
    refine post_store (cause := .normal) (e := e) (sch := (mapWindows (orphan e.tag) s).sched) hnew fun v hv hp => ?_
    obtain ⟨w, hw, rfl⟩ := List.mem_map.1 hv
    simp only [orphan_eq] at hp
    split at hp
    case isTrue => cases hp
    case isFalse hne => exact hne hp
  · rw [State.setSched_sched, forceLate_tags]
    exact h

theorem settleEvents_store {es : List Event} {s : State}
    (h : StoreLegal (s.sched.events.map Event.tag) s.sched.orphanCount s.windows) :
    StoreLegal ((es.foldl settleEvent s).sched.events.map Event.tag) (es.foldl settleEvent s).sched.orphanCount
      (es.foldl settleEvent s).windows := by
  induction es generalizing s with
  | nil => exact h
  | cons e rest ih => exact ih (settleEvent_store h)

theorem travelStep_legal {s : State} (h : WindowsLegal s) : WindowsLegal (travelStep s) := by
  rw [WindowsLegal_iff] at h ⊢
  refine ⟨settleEvents_store (travelOpen_store h.1), fun c v hv => ?_⟩
  obtain ⟨w, -, ⟨hsame, -⟩, -, hfrom⟩ := mem_travelStep_held hv
  rw [hsame]
  rcases hfrom with hw | ⟨-, hcorner, -⟩
  · exact h.2 c w hw
  · exact hcorner

/-- A travel step on an empty table and an empty store leaves both empty. -/
theorem travelStep_stays_empty {s : State} (h : WindowsLegal s) (hevents : s.sched.events = []) (hwindows : s.windows = []) :
    (travelStep s).sched.events = [] ∧ (travelStep s).windows = [] ∧ (travelStep s).sched.orphanCount = 0 := by
  have hnone : (travelStep s).windows = [] := List.eq_nil_iff_forall_not_mem.2 fun v hv => by
    obtain ⟨w, hw, -⟩ := travelStep_windows hv
    simp [hwindows] at hw
  have hlegal := travelStep_legal h
  obtain ⟨-, -, htags, -⟩ := travelStep_settled s
  refine ⟨?_, hnone, ?_⟩
  · rw [travelOpen_eq] at htags
    simpa [hevents] using htags
  · obtain ⟨-, hcount, -⟩ := hlegal
    rw [hcount, hnone]
    rfl

/-! ## Every change and the store -/

theorem cancel_arb (e : Event) (s : State) (c : Corner) :
    (cancel e s).arb.get c = removeWindows (ofEvent e.tag) false (s.arb.get c) := PerCorner.get_map _ _ c

theorem mem_cancel_held {e : Event} {s : State} {c : Corner} {w : Window} :
    w ∈ ((cancel e s).arb.get c).held ↔ w ∈ (s.arb.get c).held ∧ ofEvent e.tag w = false := by
  rw [cancel_arb, (removeWindows_perm _ _).mem_iff, List.mem_filter]
  simp

theorem cancel_pendingWindows (e : Event) (s : State) :
    (cancel e s).sched.pendingWindows = s.sched.pendingWindows.filter fun w => !ofEvent e.tag w := by
  rw [cancel_sched]
  rfl

/-- The store after a cancellation is the store without the event's windows (R68). -/
theorem cancel_windows_perm (e : Event) (s : State) :
    (cancel e s).windows.Perm (s.windows.filter fun w => !ofEvent e.tag w) := by
  simp only [State.windows, List.filter_append, cancel_pendingWindows, cancel_arb, Corner.all, List.flatMap_cons,
    List.flatMap_nil, List.append_nil]
  exact (List.Perm.refl _).append ((removeWindows_perm _ _).append ((removeWindows_perm _ _).append
    ((removeWindows_perm _ _).append (removeWindows_perm _ _))))

theorem cancel_windows_subset {e : Event} {s : State} {w : Window} (h : w ∈ (cancel e s).windows) : w ∈ s.windows :=
  List.mem_of_mem_filter ((cancel_windows_perm e s).subset h)

theorem cancel_legal {e : Event} {s : State} (h : WindowsLegal s) : WindowsLegal (cancel e s) := by
  rw [WindowsLegal_iff] at h ⊢
  refine ⟨?_, fun c w hw => h.2 c w (mem_cancel_held.1 hw).1⟩
  have hsplit : (s.windows.filter (fun w => !ofEvent e.tag w) ++ s.windows.filter (ofEvent e.tag)).Perm s.windows :=
    List.perm_append_comm.trans (List.filter_append_perm _ _)
  have hnone : ((s.windows.filter (ofEvent e.tag)).filter isOrphan).length = 0 := by
    rw [List.filter_filter, List.length_eq_zero_iff, List.filter_eq_nil_iff]
    intro w _
    cases hp : w.parent <;> simp [ofEvent, isOrphan, hp]
  have hleft := (h.1.perm hsplit.symm).retired
  rw [hnone, Nat.sub_zero] at hleft
  have hposted := post_store (cause := .cancelled) (e := e) (sch := s.sched) hleft fun w hw hp => by
    simpa [ofEvent, hp] using (List.mem_filter.1 hw).2
  have hcount : (cancel e s).sched.orphanCount = s.sched.orphanCount := by rw [cancel_sched]; rfl
  have hevents : (cancel e s).sched.events = (post .cancelled e s.sched).events := by rw [cancel_sched]; rfl
  rw [hcount, hevents]
  exact hposted.perm (cancel_windows_perm e s).symm

/-- The windows an admission makes: of the event's tag, PENDING, not PASSED (R49). -/
theorem mem_createdWindows {s : State} {t : TakenEvent} {w : Window} (h : w ∈ createdWindows s t) :
    w.parent = .event t.tag ∧ w.cSoft = t.cSoft ∧ w.cFirm = t.cFirm ∧ ¬w.isPassed := by
  obtain ⟨hmem, hpassed⟩ := List.mem_filter.1 h
  obtain ⟨c, -, rfl⟩ := List.mem_map.1 hmem
  exact ⟨rfl, rfl, rfl, fun hp => by rw [(windowPassed_iff _).2 hp] at hpassed; cases hpassed⟩

/-- An admission puts the windows it makes behind the PENDING ones. -/
theorem admitEvent_windows (s : State) (t : TakenEvent) :
    (admitEvent s t).windows.Perm (s.windows ++ createdWindows s t) := by
  simp only [State.windows, admitEvent, State.setSched_sched, State.setSched_arb]
  refine List.perm_iff_count.2 fun v => ?_
  simp only [List.count_append]
  omega

theorem admitEvent_legal {s : State} {t : TakenEvent} (h : WindowsLegal s) : WindowsLegal (admitEvent s t) := by
  rw [WindowsLegal_iff] at h ⊢
  refine ⟨StoreLegal.perm ?_ (admitEvent_windows s t).symm, h.2⟩
  obtain ⟨htags, hcount, hle⟩ := h.1
  have hnone : (createdWindows s t).filter isOrphan = [] := by
    refine List.filter_eq_nil_iff.2 fun w hw => ?_
    simp [isOrphan, (mem_createdWindows hw).1]
  refine ⟨fun w hw tag hparent => ?_, ?_, hle⟩
  · simp only [admitEvent, State.setSched_sched, List.map_append, List.mem_append]
    rcases List.mem_append.1 hw with hw | hw
    · exact .inl (htags w hw tag hparent)
    · rw [(mem_createdWindows hw).1] at hparent
      cases hparent
      exact .inr (List.mem_singleton.2 rfl)
  · rw [List.filter_append, hnone, List.append_nil]
    exact hcount

/-- After a flush table and store are empty (R70). -/
theorem flush_empty (s : State) :
    (flush s).sched.events = [] ∧ (flush s).windows = [] ∧ (flush s).sched.orphanCount = 0 := by
  refine ⟨rfl, ?_, rfl⟩
  simp [State.windows, Corner.all, clearArbitration, Arbiter.held]

/-- An empty table and an empty store meet the law of the store. -/
theorem WindowsLegal_of_empty {s : State} (h : s.windows = [] ∧ s.sched.orphanCount = 0) : WindowsLegal s := by
  rw [WindowsLegal_iff, h.1, h.2]
  refine ⟨StoreLegal.empty _, fun c w hw => ?_⟩
  have : w ∈ s.windows := mem_windows.2 (.inr ⟨c, hw⟩)
  simp [h.1] at this

theorem reset_windows (cause : RestartCause) (s : State) : (resetBlocks cause s).windows = [] := rfl

theorem options_windows (o : PerCorner OptionFields) (s : State) :
    ({ s with arb := PerCorner.build fun c => setOptions (o.get c) (s.arb.get c) } : State).windows = s.windows := rfl

theorem WindowStore_change {s t : State} (hchange : Change s t) (h : WindowsLegal s ∧ ScheduleEmptyOutsideActive s) :
    WindowsLegal t ∧ ScheduleEmptyOutsideActive t := by
  obtain ⟨hlegal, hempty⟩ := id h
  cases hchange
  case port | notices | stage | bodyAge | body | clearFaults | cornerPeriod | released | collect
    | pinWhileHeld | drvenFall | drvenRise | stoppingMs | beginDownload | acceptSegment | abortDownload
    | beginStore | storeEnd | reason => exact h
  case finishDownload data _ _ =>
    obtain ⟨k, q, heq, -⟩ := finishDownload_frame 9 data s
    rw [heq]
    exact h
  case options o =>
    refine ⟨?_, hempty⟩
    rw [WindowsLegal_iff] at hlegal ⊢
    refine ⟨hlegal.1, fun c w hw => hlegal.2 c w ?_⟩
    rwa [PerCorner.get_build] at hw
  case reset => exact ⟨WindowsLegal_of_empty ⟨reset_windows _ _, rfl⟩, fun _ => ⟨rfl, reset_windows _ _, rfl⟩⟩
  case travel =>
    refine ⟨travelStep_legal hlegal, fun hpart => ?_⟩
    rw [travelStep_sup] at hpart
    exact travelStep_stays_empty hlegal (hempty hpart).1 (hempty hpart).2.1
  case flush | limp | stopping =>
    exact ⟨WindowsLegal_of_empty (flush_empty s).2, fun _ => flush_empty s⟩
  case admitted hcheck =>
    exact ⟨admitEvent_legal hlegal, fun hpart => absurd (admissionCheck_ok hcheck).1 hpart⟩
  case cancel e he =>
    refine ⟨cancel_legal hlegal, fun hpart => ?_⟩
    rw [(hempty hpart).1] at he
    cases he
  case loadEnd _ hpart => exact ⟨hlegal, fun _ => hempty (by simp [hpart])⟩
  case standby _ hpart => exact ⟨hlegal, fun _ => hempty (by rcases hpart with hp | hp <;> simp [hp])⟩
  case active | returned | resumed => exact ⟨hlegal, fun hpart => absurd rfl hpart⟩

/-! ## Within reach -/

theorem travelStep_reach {s : State} (h : ReachLegal s) : ReachLegal (travelStep s) := by
  refine ⟨fun v hv => ?_, fun c v hv => ?_⟩
  · obtain ⟨w, -, -, -, hpassed⟩ := travelStep_windows hv
    exact hpassed
  · obtain ⟨w, -, ⟨hsame, -⟩, -, hfrom⟩ := mem_travelStep_held hv
    rcases hfrom with hw | ⟨-, -, hlead⟩
    · have hle := h.2 c w hw
      rw [hsame]
      simp only [movedWindow]
      omega
    · exact hlead

/-- Windows that were all in the store, at their arbiters, stay within reach. -/
theorem ReachLegal.of_subset {s t : State} (h : ReachLegal s) (hwindows : ∀ w ∈ t.windows, w ∈ s.windows)
    (hheld : ∀ c, ∀ w ∈ (t.arb.get c).held, w ∈ (s.arb.get c).held) : ReachLegal t :=
  ⟨fun w hw => h.1 w (hwindows w hw), fun c w hw => h.2 c w (hheld c w hw)⟩

theorem ReachLegal_of_empty {s : State} (h : s.windows = []) : ReachLegal s := by
  have hnone : ∀ w, w ∉ s.windows := fun w hw => by simp [h] at hw
  exact ⟨fun w hw => absurd hw (hnone w), fun c w hw => absurd (mem_windows.2 (.inr ⟨c, hw⟩)) (hnone w)⟩

theorem ReachLegal_change {s t : State} (hchange : Change s t) (h : ReachLegal s) : ReachLegal t := by
  cases hchange
  case port | notices | stage | bodyAge | body | clearFaults | cornerPeriod | released | collect
    | pinWhileHeld | drvenFall | drvenRise | stoppingMs | beginDownload | acceptSegment | abortDownload
    | beginStore | storeEnd | reason | loadEnd | standby | active | returned | resumed => exact h
  case finishDownload data _ _ =>
    obtain ⟨k, q, heq, -⟩ := finishDownload_frame 9 data s
    rw [heq]
    exact h
  case options o =>
    refine h.of_subset (fun w hw => hw) fun c w hw => ?_
    rwa [PerCorner.get_build] at hw
  case reset => exact ReachLegal_of_empty (reset_windows _ _)
  case travel => exact travelStep_reach h
  case flush | limp | stopping => exact ReachLegal_of_empty (flush_empty s).2.1
  case admitted taken _ =>
    refine ⟨fun w hw => ?_, h.2⟩
    rcases List.mem_append.1 ((admitEvent_windows s taken).subset hw) with hw | hw
    · exact h.1 w hw
    · exact (mem_createdWindows hw).2.2.2
  case cancel e _ => exact h.of_subset (fun w => cancel_windows_subset) fun c w hw => (mem_cancel_held.1 hw).1

/-- Settles O57: store, table and orphan count move together in every change, and what stays in the store is within reach. -/
theorem everyStepKeepsTheWindowStore : Obligations.EveryStepKeepsTheWindowStore :=
  ⟨fun _ _ hs hrun => step_keeps (P := fun s => WindowsLegal s ∧ ScheduleEmptyOutsideActive s)
    (fun _ _ => WindowStore_change) hrun hs,
    fun _ _ hs hrun => step_keeps (fun _ _ => ReachLegal_change) hrun hs⟩

end Sys2Proof.Machine
end

section
/-! PROOFS. What validation finds (R174): each check finds the first offset at which its field, point or edge fails. -/

namespace Sys2Proof.Machine

open Sys2Proof

/-! ## The first failing offset of a list in offset order -/

/-- A search of a list in offset order ends at the first offset at which something of the list fails. -/
theorem find?_firstAt {α : Type} {key : α → Nat} {fails : α → Bool} {l : List α}
    (hsorted : l.Pairwise (key · < key ·)) {o : Nat} (h : firstAt (fun p => ∃ x ∈ l, key x = p ∧ fails x = true) o) :
    (l.find? fails).map key = some o := by
  induction l with
  | nil => obtain ⟨⟨x, hx, -⟩, -⟩ := h; cases hx
  | cons a rest ih =>
    obtain ⟨⟨x, hx, rfl, hfails⟩, hfirst⟩ := h
    obtain ⟨hbefore, hrest⟩ := List.pairwise_cons.1 hsorted
    cases ha : fails a with
    | true =>
      rw [List.find?_cons_of_pos ha]
      rcases List.mem_cons.1 hx with rfl | hx
      · rfl
      · exact absurd ⟨a, List.mem_cons_self, rfl, ha⟩ (hfirst _ (hbefore x hx))
    | false =>
      rw [List.find?_cons_of_neg (by simp [ha])]
      have hx : x ∈ rest := (List.mem_cons.1 hx).resolve_left fun he => by rw [← he, hfails] at ha; cases ha
      exact ih hrest ⟨⟨x, hx, rfl, hfails⟩, fun p hp ⟨y, hy, he, hf⟩ =>
        hfirst p hp ⟨y, List.mem_cons_of_mem _ hy, he, hf⟩⟩

theorem firstAt_congr {p q : Nat → Prop} (h : ∀ o, p o ↔ q o) {o : Nat} : firstAt p o ↔ firstAt q o := by
  simp only [firstAt, h]

/-! ## Each check against the words of the statement -/

theorem headRanges_outOfRange {m : Memory} : ∀ f ∈ headRanges, f.inRange m = false → headOutOfRange m f.offset := by
  simp [headRanges, twoByteRange, oneByteRange, FieldRange.inRange, FieldRange.held, Limit.value, headOutOfRange]

theorem fieldFails_iff {m : Memory} {o : Nat} : fieldFails m o ↔ outOfRange m o := by
  refine ⟨fun h => ?_, outOfRange_fails⟩
  obtain ⟨f, hf, rfl, hfail⟩ := h
  simp only [fieldRanges, List.mem_append, List.mem_flatMap, List.mem_map, List.mem_range] at hf
  rcases hf with (hf | ⟨b, hb, hf⟩) | ⟨k, hk, rfl⟩
  · exact .inl (headRanges_outOfRange f hf hfail)
  · refine .inr (.inl ⟨b, by simpa using hb, ?_⟩)
    simp only [modeRowRanges, List.mem_cons, List.not_mem_nil, or_false] at hf
    rcases hf with rfl | rfl | rfl | rfl | rfl | rfl | rfl <;>
      simp [twoByteRange, FieldRange.inRange, FieldRange.held, Limit.value] at hfail ⊢ <;> omega
  · refine .inr (.inr ⟨k, hk, rfl, ?_⟩)
    simpa [twoByteRange, FieldRange.inRange, FieldRange.held, Limit.value] using hfail

theorem innerPoints_iff {m : Memory} {o : Nat} :
    (o ∈ innerPoints ∧ m.word o ≤ m.word (o - 2)) ↔ outOfOrder m o := by
  refine ⟨fun ⟨hmem, h⟩ => ?_, outOfOrder_mem⟩
  simp only [innerPoints, List.mem_flatMap, List.mem_map, List.mem_range] at hmem
  obtain ⟨r, hr, k, hk, rfl⟩ := hmem
  exact ⟨r, k, hr, hk, rfl, h⟩

theorem fieldRanges_sorted : fieldRanges.Pairwise (fun f g => f.offset < g.offset) :=
  List.pairwise_map.1 (List.isChain_iff_pairwise.1
    (by decide +kernel : (fieldRanges.map FieldRange.offset).IsChain (· < ·)))

theorem innerPoints_sorted : innerPoints.Pairwise (· < ·) :=
  List.isChain_iff_pairwise.1 (by decide +kernel)

theorem rangeFailure_first {m : Memory} {o : Nat} (h : firstAt (outOfRange m) o) : rangeFailure m = some o :=
  find?_firstAt fieldRanges_sorted ((firstAt_congr fun p => by
    rw [← fieldFails_iff, fieldFails]
    simp).1 h)

theorem rangeFailure_none {m : Memory} : rangeFailure m = none ↔ ∀ p, ¬outOfRange m p := by
  simp only [rangeFailure, Option.map_eq_none_iff, List.find?_eq_none, ← fieldFails_iff, fieldFails]
  constructor
  · rintro h p ⟨f, hf, -, hfail⟩
    exact h f hf (by simp [hfail])
  · intro h f hf hfail
    exact h f.offset ⟨f, hf, rfl, by simpa using hfail⟩

theorem orderFailure_first {m : Memory} {o : Nat} (h : firstAt (outOfOrder m) o) : orderFailure m = some o := by
  have hfind := find?_firstAt (key := id) (fails := fun o => decide (m.word o ≤ m.word (o - 2))) innerPoints_sorted
    ((firstAt_congr fun p => by rw [← innerPoints_iff]; simp).1 h)
  simpa [orderFailure] using hfind

theorem orderFailure_none {m : Memory} : orderFailure m = none ↔ ∀ p, ¬outOfOrder m p := by
  simp [orderFailure, ← innerPoints_iff]

theorem edgeNotAbove_iff {m : Memory} (p : Nat) :
    edgeNotAbove m p ↔ ∃ x ∈ [34, 36], id x = p ∧ decide (m.word x ≤ m.word (x - 2)) = true := by
  simp only [edgeNotAbove, List.mem_cons, List.not_mem_nil, or_false, id, decide_eq_true_eq]
  exact ⟨fun ⟨hp, h⟩ => ⟨p, hp, rfl, h⟩, fun ⟨_, hx, rfl, h⟩ => ⟨hx, h⟩⟩

theorem edgeFailure_first {m : Memory} {o : Nat} (h : firstAt (edgeNotAbove m) o) : edgeFailure m = some o := by
  have hfind := find?_firstAt (key := id) (l := [34, 36]) (fails := fun o => decide (m.word o ≤ m.word (o - 2)))
    (by decide) ((firstAt_congr edgeNotAbove_iff).1 h)
  simpa [edgeFailure] using hfind

theorem edgeFailure_none {m : Memory} : edgeFailure m = none ↔ ∀ p, ¬edgeNotAbove m p := by
  simp [edgeFailure, edgeNotAbove]

theorem crcHolds_iff {m : Memory} : crcHolds m = true ↔ (crc16 (m.bytes 0 318)).toNat = m.word 318 := by
  simp [crcHolds, calCrc]

/-- An image passes where none of the four checks finds a failure (R174). -/
theorem validate_pass {m : Memory} :
    validate m = .pass ↔ (crc16 (m.bytes 0 318)).toNat = m.word 318 ∧ (∀ p, ¬outOfRange m p) ∧
      (∀ p, ¬outOfOrder m p) ∧ ∀ p, ¬edgeNotAbove m p := by
  rw [← crcHolds_iff, ← rangeFailure_none, ← orderFailure_none, ← edgeFailure_none, validate]
  repeat' split
  all_goals simp_all

/-! ## What a passing image holds -/

theorem headRanges_hold {m : Memory} : (∀ o, ¬headOutOfRange m o) ↔
    (2000 ≤ wheelbase m ∧ wheelbase m ≤ 3600) ∧
    (∀ c, 500 ≤ halfTrack m c ∧ halfTrack m c ≤ 900 ∧ 600 ≤ lever m c ∧ lever m c ≤ 2200) ∧
    (∀ c, travelZero m c ≤ 4095 ∧ 1 ≤ travelGain m c ∧ travelGain m c ≤ 4095) ∧
    (1 ≤ filterAlpha m ∧ filterAlpha m ≤ 16) ∧ (1 ≤ loopGain m ∧ loopGain m ≤ 64) ∧ (20 ≤ vGate m ∧ vGate m ≤ 200) ∧
    (∀ o, o = 32 ∨ o = 34 ∨ o = 36 → 20 ≤ m.word o ∧ m.word o ≤ 2000) ∧ (∀ c, limpCurrent m c ≤ 1650) ∧
    (1800 ≤ overcurrentThreshold m ∧ overcurrentThreshold m ≤ 2500) ∧ retryLimit m ≤ 7 ∧
    (10 ≤ bodyTimeout m ∧ bodyTimeout m ≤ 100) ∧ (10 ≤ retryDelay m ∧ retryDelay m ≤ 500) ∧
    (20 ≤ limpTimeout m ∧ limpTimeout m ≤ 500) ∧ (2000 ≤ maxAge m ∧ maxAge m ≤ 30000) := by
  simp only [headOutOfRange, not_or, not_and, forall_and, Corner.forall_iff]
  simp [wheelbase, halfTrack, lever, travelZero, travelGain, filterAlpha, loopGain, vGate, limpCurrent,
    overcurrentThreshold, retryLimit, bodyTimeout, retryDelay, limpTimeout, maxAge, Corner.isFront, Corner.index]
  omega

theorem Mode.forall_iff {p : Mode → Prop} : (∀ md, p md) ↔ p .comfort ∧ p .normal ∧ p .sport ∧ p .dynamic :=
  ⟨fun h => ⟨h _, h _, h _, h _⟩, fun ⟨h0, h1, h2, h3⟩ md => by cases md <;> assumption⟩

/-- A mode row holds where its constants are ordered and within their ranges (section 11.5). -/
def modeRowHolds (m : Memory) (md : Mode) : Prop :=
  (modeRow m md).cMin ≤ (modeRow m md).cFallback ∧ (modeRow m md).cFallback ≤ (modeRow m md).cMax ∧
  (modeRow m md).cMax ≤ 4000 ∧ (modeRow m md).cSky ≤ 4000 ∧
  1 ≤ (modeRow m md).rise ∧ (modeRow m md).rise ≤ 500 ∧ 1 ≤ (modeRow m md).fall ∧ (modeRow m md).fall ≤ 500 ∧
  modeWord m md 12 ≤ 1

theorem modeRows_hold {m : Memory} : (∀ o, ¬modeOutOfRange m o) ↔ ∀ md, modeRowHolds m md := by
  simp only [modeOutOfRange, not_exists, not_or, not_and, forall_and, Mode.forall_iff, modeRowHolds, modeRow, modeWord,
    Mode.code]
  simp
  simp only [forall_and, or_imp, forall_eq]
  omega

/-- The points of a row rise and end at most at 4000 (R174, section 11.5). -/
def mapRowHolds (m : Memory) (c : Corner) (band : Nat) : Prop :=
  (∀ k, k < 11 → mapPoint m c band k < mapPoint m c band (k + 1)) ∧ mapPoint m c band 11 ≤ 4000

theorem mapPoint_word (m : Memory) (c : Corner) (band k : Nat) :
    mapPoint m c band k = m.word (108 + 24 * ((if c.isFront then 0 else 4) + band) + 2 * k) := by
  cases c <;> simp [mapPoint, mapRowOffset, Corner.isFront] <;> congr 1 <;> omega

/-- Every row of the image is the row of a corner's axle at a band. -/
theorem row_of_corner {r : Nat} (hr : r < 8) :
    ∃ (c : Corner) (band : Nat), band < 4 ∧ (if c.isFront then 0 else 4) + band = r := by
  by_cases h : r < 4
  · exact ⟨.fl, r, h, by simp [Corner.isFront]⟩
  · exact ⟨.rl, r - 4, by omega, by simp [Corner.isFront]; omega⟩

theorem row_lt {c : Corner} {band : Nat} (h : band < 4) : (if c.isFront then 0 else 4) + band < 8 := by
  split <;> omega

theorem mapRows_hold {m : Memory} :
    ((∀ o, ¬pointOutOfRange m o) ∧ ∀ o, ¬outOfOrder m o) ↔ ∀ c band, band < 4 → mapRowHolds m c band := by
  constructor
  · rintro ⟨hrange, horder⟩ c band hband
    refine ⟨fun k hk => ?_, ?_⟩
    · by_contra hle
      rw [Nat.not_lt, mapPoint_word, mapPoint_word] at hle
      refine horder _ ⟨_, k, row_lt (c := c) hband, hk, rfl, ?_⟩
      simpa only [Nat.mul_add, Nat.mul_one, ← Nat.add_assoc, Nat.add_sub_cancel] using hle
    · by_contra hover
      rw [Nat.not_le, mapPoint_word] at hover
      have hr := row_lt (c := c) hband
      exact hrange _ ⟨12 * ((if c.isFront then 0 else 4) + band) + 11, by omega, by omega, hover⟩
  · intro h
    constructor
    · rintro o ⟨k, hk, rfl, hover⟩
      obtain ⟨c, band, hband, hrow⟩ := row_of_corner (r := k / 12) (by omega)
      obtain ⟨hrise, hlast⟩ := h c band hband
      have hle := (row_le_row hrise (j := k % 12) (by omega) (by decide)).trans hlast
      rw [mapPoint_word, hrow] at hle
      rw [show 108 + 24 * (k / 12) + 2 * (k % 12) = 108 + 2 * k by omega] at hle
      omega
    · rintro o ⟨r, k, hr, hk, rfl, hle⟩
      obtain ⟨c, band, hband, hrow⟩ := row_of_corner hr
      have hlt := (h c band hband).1 k hk
      rw [mapPoint_word, mapPoint_word, hrow] at hlt
      simp only [Nat.mul_add, Nat.mul_one, ← Nat.add_assoc, Nat.add_sub_cancel] at hle hlt
      omega

theorem edges_hold {m : Memory} :
    ((∀ o, o = 32 ∨ o = 34 ∨ o = 36 → 20 ≤ m.word o ∧ m.word o ≤ 2000) ∧ ∀ o, ¬edgeNotAbove m o) ↔
      20 ≤ edge1 m ∧ edge1 m < edge2 m ∧ edge2 m < edge3 m ∧ edge3 m ≤ 2000 := by
  simp only [edgeNotAbove, edge1, edge2, edge3, not_and, Nat.not_le, or_imp, forall_and, forall_eq,
    Nat.reduceSub]
  omega

/-- What a passing image holds (R174, section 11.5). -/
theorem validate_pass_iff {m : Memory} : validate m = .pass ↔
    (crc16 (m.bytes 0 318)).toNat = m.word 318 ∧
    (2000 ≤ wheelbase m ∧ wheelbase m ≤ 3600) ∧
    (∀ c, 500 ≤ halfTrack m c ∧ halfTrack m c ≤ 900 ∧ 600 ≤ lever m c ∧ lever m c ≤ 2200) ∧
    (∀ c, travelZero m c ≤ 4095 ∧ 1 ≤ travelGain m c ∧ travelGain m c ≤ 4095) ∧
    (1 ≤ filterAlpha m ∧ filterAlpha m ≤ 16) ∧ (1 ≤ loopGain m ∧ loopGain m ≤ 64) ∧ (20 ≤ vGate m ∧ vGate m ≤ 200) ∧
    (20 ≤ edge1 m ∧ edge1 m < edge2 m ∧ edge2 m < edge3 m ∧ edge3 m ≤ 2000) ∧ (∀ c, limpCurrent m c ≤ 1650) ∧
    (1800 ≤ overcurrentThreshold m ∧ overcurrentThreshold m ≤ 2500) ∧ retryLimit m ≤ 7 ∧
    (10 ≤ bodyTimeout m ∧ bodyTimeout m ≤ 100) ∧ (10 ≤ retryDelay m ∧ retryDelay m ≤ 500) ∧
    (20 ≤ limpTimeout m ∧ limpTimeout m ≤ 500) ∧ (2000 ≤ maxAge m ∧ maxAge m ≤ 30000) ∧
    (∀ md, modeRowHolds m md) ∧ ∀ c band, band < 4 → mapRowHolds m c band := by
  rw [validate_pass, ← mapRows_hold, ← modeRows_hold, ← edges_hold]
  simp only [outOfRange, not_or, forall_and, headRanges_hold]
  constructor
  · rintro ⟨hcrc, ⟨⟨hwb, hrig, htravel, halpha, hgain, hgate, hedges, hlimp, hover, hretry, hbody, hdelay, hlink, hage⟩,
      hmodes, hpoints⟩, horder, habove⟩
    exact ⟨hcrc, hwb, hrig, htravel, halpha, hgain, hgate, ⟨hedges, habove⟩, hlimp, hover, hretry, hbody, hdelay, hlink,
      hage, hmodes, hpoints, horder⟩
  · rintro ⟨hcrc, hwb, hrig, htravel, halpha, hgain, hgate, ⟨hedges, habove⟩, hlimp, hover, hretry, hbody, hdelay, hlink,
      hage, hmodes, hpoints, horder⟩
    exact ⟨hcrc, ⟨⟨hwb, hrig, htravel, halpha, hgain, hgate, hedges, hlimp, hover, hretry, hbody, hdelay, hlink, hage⟩,
      hmodes, hpoints⟩, horder, habove⟩

/-- Settles O44: each check searches its fields in offset order, so what it finds is the first failing offset. -/
theorem validationMeansEveryCheck : Obligations.ValidationMeansEveryCheck := by
  refine ⟨fun m => ⟨fun hcrc => ?_, fun o hcrc hrange => ?_, fun o hcrc hrange horder => ?_,
    fun o hcrc hrange horder hedges => ?_, fun hcrc hrange horder hedges => ?_⟩, fun m => validate_pass_iff⟩
  · rw [validate, if_neg (mt crcHolds_iff.1 hcrc)]
  · rw [validate, if_pos (crcHolds_iff.2 (not_not.1 hcrc)), rangeFailure_first hrange]
  · rw [validate, if_pos (crcHolds_iff.2 (not_not.1 hcrc)), rangeFailure_none.2 hrange, orderFailure_first horder]
  · rw [validate, if_pos (crcHolds_iff.2 (not_not.1 hcrc)), rangeFailure_none.2 hrange, orderFailure_none.2 horder,
      edgeFailure_first hedges]
  · exact validate_pass.2 ⟨not_not.1 hcrc, hrange, horder, hedges⟩

end Sys2Proof.Machine
end

section
/-! PROOFS. Every step keeps acquisition, motion input and counts within their ranges. -/

namespace Sys2Proof.Machine

open Sys2Proof

/-! ## The acquisition of a corner -/

/-- A part of a difference, a sixteenth of at most 16, does not go past its end. -/
theorem tdiv_sixteen_between {d : Int} {a : Nat} (ha : a ≤ 16) :
    (0 ≤ d → 0 ≤ (d * a).tdiv 16 ∧ (d * a).tdiv 16 ≤ d) ∧ (d ≤ 0 → d ≤ (d * a).tdiv 16 ∧ (d * a).tdiv 16 ≤ 0) := by
  have hpart : ∀ e : Int, 0 ≤ e → 0 ≤ (e * a).tdiv 16 ∧ (e * a).tdiv 16 ≤ e := by
    intro e he
    have hlow : 0 ≤ e * a := Int.mul_nonneg he (by omega)
    have hhigh : e * a ≤ e * 16 := Int.mul_le_mul_of_nonneg_left (by omega) he
    rw [Int.tdiv_eq_ediv_of_nonneg hlow]
    omega
  refine ⟨hpart d, fun hd => ?_⟩
  obtain ⟨hlow, hhigh⟩ := hpart (-d) (by omega)
  rw [Int.neg_mul, Int.neg_tdiv] at hlow hhigh
  omega

/-- The filter moves from F towards 16 times the travel and not past it (R6). -/
theorem filterStep_bounds {alpha : Nat} {x : Int} {f : Filter} (halpha : alpha ≤ 16) (hx : -1500 ≤ x ∧ x ≤ 1500)
    (hf : -24000 ≤ f.value ∧ f.value ≤ 24000) :
    -24000 ≤ (filterStep alpha x f).value ∧ (filterStep alpha x f).value ≤ 24000 := by
  obtain ⟨hup, hdown⟩ := tdiv_sixteen_between (d := 16 * x - f.value) halpha
  simp only [filterStep]
  rcases Int.le_total 0 (16 * x - f.value) with h | h
  · have := hup h
    omega
  · have := hdown h
    omega

/-- What counting and calibration leave, before the filter stage makes v_rel good (R3, R4). -/
def SampleLegal (q : Acquisition) : Prop :=
  (-1500 ≤ q.x ∧ q.x ≤ 1500) ∧ (-4000 ≤ q.vRel ∧ q.vRel ≤ 4000) ∧ q.bad ≤ 3 ∧ q.good ≤ 20 ∧
  ∀ f, q.filter = some f → -24000 ≤ f.value ∧ f.value ≤ 24000 ∧ -24000 ≤ f.previous ∧ f.previous ≤ 24000

theorem AcquisitionLegal.sample {q : Acquisition} (h : AcquisitionLegal q) : SampleLegal q := by
  obtain ⟨hx0, hx1, hv0, hv1, hbad, hgood, -, -, hf⟩ := h
  exact ⟨⟨hx0, hx1⟩, ⟨hv0, hv1⟩, hbad, hgood, hf⟩

theorem countSample_legal {q : Acquisition} (good : Bool) (h : SampleLegal q) : SampleLegal (countSample good q) := by
  obtain ⟨hx, hv, hbad, hgood, hf⟩ := h
  simp only [countSample]
  repeat' split
  · exact ⟨hx, hv, Nat.zero_le _, Nat.min_le_left _ _, nofun⟩
  · exact ⟨hx, hv, Nat.zero_le _, Nat.min_le_left _ _, hf⟩
  · exact ⟨hx, hv, Nat.min_le_left _ _, Nat.zero_le _, hf⟩

theorem SampleLegal.calibrated {q : Acquisition} (h : SampleLegal q) (offset gain : Nat) (a : BitVec 12) :
    SampleLegal { q with x := calibrate offset gain a } :=
  ⟨clampInt_mem _ _ _ (by decide), h.2⟩

theorem relativeVelocity_rest : (-4000 : Int) ≤ 0 ∧ (0 : Int) ≤ 4000 := by decide

/-- With v_rel 0 a sample's acquisition is legal. -/
theorem SampleLegal.at_rest {q : Acquisition} (h : SampleLegal q) : AcquisitionLegal { q with vRel := 0 } := by
  obtain ⟨hx, -, hbad, hgood, hf⟩ := h
  exact ⟨hx.1, hx.2, relativeVelocity_rest.1, relativeVelocity_rest.2, hbad, hgood, fun _ => rfl, fun _ => rfl, hf⟩

theorem SampleLegal.filtered {q : Acquisition} {f : Filter} (h : SampleLegal q) (hsensor : q.sensor = false)
    (hvalue : -24000 ≤ f.value ∧ f.value ≤ 24000) (hprevious : -24000 ≤ f.previous ∧ f.previous ≤ 24000) {v : Int}
    (hv : -4000 ≤ v ∧ v ≤ 4000) : AcquisitionLegal { q with filter := some f, vRel := v } := by
  obtain ⟨hx, -, hbad, hgood, -⟩ := h
  refine ⟨hx.1, hx.2, hv.1, hv.2, hbad, hgood, nofun, fun hs => ?_, ?_⟩
  · rw [hsensor] at hs
    cases hs
  · rintro _ ⟨⟩
    exact ⟨hvalue.1, hvalue.2, hprevious.1, hprevious.2⟩

theorem filterStage_legal {q : Acquisition} (good : Bool) {valid : Bool} {alpha : Nat}
    (halpha : valid = true → alpha ≤ 16) (h : SampleLegal q) : AcquisitionLegal (filterStage good valid alpha q) := by
  unfold filterStage
  split
  case isTrue => exact h.at_rest
  case isFalse hrun =>
    obtain ⟨hvalid, hsensor⟩ : valid = true ∧ q.sensor = false := by simpa using hrun
    obtain ⟨hx, hv, -, -, hf⟩ := id h
    split
    · split
      case h_1 hfilter =>
        exact h.filtered hsensor (by simp only; omega) (by simp only; omega) (by decide)
      case h_2 f hfilter =>
        obtain ⟨hlow, hhigh, -, -⟩ := hf f hfilter
        exact h.filtered hsensor (filterStep_bounds (halpha hvalid) hx ⟨hlow, hhigh⟩) ⟨hlow, hhigh⟩
          (clampInt_mem _ _ _ (by decide))
    · split
      case h_1 => exact h.at_rest
      case h_2 f hfilter =>
        obtain ⟨hlow, hhigh, hplow, hphigh⟩ := hf f hfilter
        have hkeep := h.filtered hsensor ⟨hlow, hhigh⟩ ⟨hplow, hphigh⟩ hv
        rwa [← hfilter] at hkeep

theorem acquire_legal {m : Memory} {valid : Bool} (c : Corner) (a : BitVec 12) {q : Acquisition}
    (halpha : valid = true → filterAlpha m ≤ 16) (h : AcquisitionLegal q) : AcquisitionLegal (acquire m valid c a q) := by
  have hcounted := countSample_legal (goodSample a) (q := { q with adc := some a }) h.sample
  unfold acquire
  refine filterStage_legal _ halpha ?_
  split
  · exact hcounted.calibrated _ _ _
  · exact hcounted

theorem unsetFilter_legal {q : Acquisition} (h : AcquisitionLegal q) : AcquisitionLegal (unsetFilter q) := by
  obtain ⟨hx, -, hbad, hgood, -⟩ := h.sample
  exact ⟨hx.1, hx.2, relativeVelocity_rest.1, relativeVelocity_rest.2, hbad, hgood, fun _ => rfl, fun _ => rfl, nofun⟩

theorem setImageState_acquisitions {s : State} (st : ImageState) (h : AcquisitionsLegal s) :
    AcquisitionsLegal (setImageState st s) := by
  intro c
  rw [setImageState_acq]
  split
  · exact unsetFilter_legal (h c)
  · exact h c

/-- A VALID image passes validation, so its filter constant is at most 16. -/
theorem ImageLegal.alpha_le {s : State} (h : ImageLegal s) (hvalid : s.imageValid = true) :
    filterAlpha s.cal.working ≤ 16 := by
  obtain ⟨-, -, -, -, halpha, -⟩ := validate_pass_iff.1 (h.2.2 (by simpa [State.imageValid] using hvalid))
  exact halpha.2

theorem AcquisitionsLegal_change {s t : State} (hchange : Change s t) (himage : ImageLegal s)
    (h : AcquisitionsLegal s) : AcquisitionsLegal t := by
  cases hchange
  case cornerPeriod c a _ =>
    intro e
    simp only [cornerPeriod, PerCorner.get_set]
    split
    case isTrue => exact acquire_legal c a himage.alpha_le (h c)
    case isFalse => exact h e
  case reset cause held =>
    intro c
    rw [show (resetBlocks cause { s with held := held }).acq.get c = Acquisition.reset from PerCorner.get_replicate _ c]
    simp [AcquisitionLegal, Acquisition.reset]
  case loadEnd => exact setImageState_acquisitions (s := s) _ h
  case finishDownload data _ _ => exact setImageState_acquisitions (s := s.setCal _) _ h
  case travel => simpa [AcquisitionsLegal] using h
  all_goals exact h

/-! ## Motion input and counts -/

theorem acceptedMotion_bounds (b : BodyFields) :
    (-2000 ≤ (acceptedMotion b).w ∧ (acceptedMotion b).w ≤ 2000) ∧
    (-4000 ≤ (acceptedMotion b).p ∧ (acceptedMotion b).p ≤ 4000) ∧
    (-4000 ≤ (acceptedMotion b).q ∧ (acceptedMotion b).q ≤ 4000) ∧ (acceptedMotion b).speed ≤ 9000 ∧
    (∀ c, (acceptedMotion b).floors.get c ≤ 4000) ∧ (acceptedMotion b).age ≤ 255 := by
  refine ⟨clampInt_mem _ _ _ (by decide), clampInt_mem _ _ _ (by decide), clampInt_mem _ _ _ (by decide),
    Nat.min_le_left _ _, fun c => ?_, Nat.zero_le _⟩
  simp only [acceptedMotion, PerCorner.get_map]
  exact Nat.min_le_left _ _

theorem takenSeverity_bounds (b : Byte) : 1 ≤ takenSeverity b ∧ takenSeverity b ≤ 8 := by
  rw [takenSeverity, clampNat_eq _ _ _ (by decide)]
  omega

theorem carryAfter_le {s : State} (h : s.sched.carry ≤ 999) : carryAfter s ≤ 999 := by
  unfold carryAfter
  split
  · omega
  · exact h

theorem resetCounts_legal (cause : RestartCause) (s : State) : CountsLegal (resetBlocks cause s) := by
  simp [CountsLegal, resetBlocks, State.reset, Motion.reset, Scheduler.reset, LinkPort.reset, Arbiter.reset]

theorem CountsLegal_change {s t : State} (hchange : Change s t) (h : CountsLegal s) : CountsLegal t := by
  obtain ⟨hw, hp, hq, hspeed, hfloors, hage, hcarry, hsilence, hsev⟩ := id h
  cases hchange
  case port hl =>
    refine ⟨hw, hp, hq, hspeed, hfloors, hage, hcarry, ?_, hsev⟩
    rcases hl with heq | hle
    · exact heq.symm ▸ hsilence
    · exact hle
  case reset cause held =>
    exact resetCounts_legal cause _
  case travel =>
    obtain ⟨-, -, hcarryAfter⟩ := travelStep_counts s
    rw [CountsLegal, travelStep_motion, travelStep_link, hcarryAfter]
    exact ⟨hw, hp, hq, hspeed, hfloors, hage, carryAfter_le hcarry, hsilence, fun c =>
      (travelStep_sameOptions s c).1.symm ▸ hsev c⟩
  case bodyAge => exact ⟨hw, hp, hq, hspeed, hfloors, Nat.min_le_left _ _, hcarry, hsilence, hsev⟩
  case body b =>
    obtain ⟨bw, bp, bq, bspeed, bfloors, bage⟩ := acceptedMotion_bounds b
    exact ⟨bw, bp, bq, bspeed, bfloors, bage, hcarry, hsilence, hsev⟩
  case options o =>
    refine ⟨hw, hp, hq, hspeed, hfloors, hage, hcarry, hsilence, fun c => ?_⟩
    simp only [PerCorner.get_build]
    exact takenSeverity_bounds _
  case cancel e _ =>
    have hkept : (cancel e s).sched.carry = s.sched.carry := by rw [cancel_sched]; rfl
    refine ⟨hw, hp, hq, hspeed, hfloors, hage, hkept.symm ▸ hcarry, hsilence, fun c => ?_⟩
    rw [cancel_arb, (removeWindows_sameOptions _ _ _).1]
    exact hsev c
  case flush | limp | stopping =>
    refine ⟨hw, hp, hq, hspeed, hfloors, hage, hcarry, hsilence, fun c => ?_⟩
    exact (PerCorner.get_map clearArbitration s.arb c).symm ▸ hsev c
  case finishDownload data _ _ =>
    obtain ⟨k, q, heq, -⟩ := finishDownload_frame 9 data s
    rw [heq]
    exact h
  all_goals exact h

/-- Settles O59: the VALID image's filter constant keeps the filter within its range; each count is kept on its own. -/
theorem everyStepKeepsTheRanges : Obligations.EveryStepKeepsTheRanges := by
  rintro s t ⟨hpart, himage, hdownload, hacq, hcounts⟩ hrun
  obtain ⟨-, -, -, hacq, hcounts⟩ := step_keeps
    (P := fun s => PartLegal s ∧ ImageLegal s ∧ DownloadLegal s ∧ AcquisitionsLegal s ∧ CountsLegal s)
    (fun _ _ hchange ⟨hpart, himage, hdownload, hacq, hcounts⟩ => ⟨PartLegal_change hchange hpart,
      ImageLegal_change hchange hdownload himage, DownloadLegal_change hchange hpart hdownload,
      AcquisitionsLegal_change hchange himage hacq, CountsLegal_change hchange hcounts⟩)
    hrun ⟨hpart, himage, hdownload, hacq, hcounts⟩
  exact ⟨hacq, hcounts⟩

end Sys2Proof.Machine
end

section
/-! PROOFS. Every step keeps coefficients and currents within their ranges, and 0 at the valves at rest. -/

namespace Sys2Proof.Machine

open Sys2Proof

/-! ## What a passing image gives to the law -/

section
variable {m : Memory} (hpass : validate m = .pass)
include hpass

theorem limpCurrent_le (c : Corner) : limpCurrent m c ≤ 1650 := by
  obtain ⟨-, -, -, -, -, -, -, -, hlimp, -⟩ := validate_pass_iff.1 hpass
  exact hlimp c

theorem modeRow_holds (md : Mode) : modeRowHolds m md := by
  obtain ⟨-, -, -, -, -, -, -, -, -, -, -, -, -, -, -, hmodes, -⟩ := validate_pass_iff.1 hpass
  exact hmodes md

theorem mapRow_holds (c : Corner) {band : Nat} (hband : band < 4) : mapRowHolds m c band := by
  obtain ⟨-, -, -, -, -, -, -, -, -, -, -, -, -, -, -, -, hrows⟩ := validate_pass_iff.1 hpass
  exact hrows c band hband

theorem inverseMap_current (c : Corner) {band : Nat} (hband : band < 4) (coefficient : Nat) :
    inverseMap (mapPoint m c band) coefficient ≤ 1650 := inverseMap_le (mapRow_holds hpass c hband).1 _

theorem limpCoefficient_le (c : Corner) {band : Nat} (hband : band < 4) (d : Drive) :
    limpCoefficient m c band d ≤ 4000 := by
  obtain ⟨hrise, hlast⟩ := mapRow_holds hpass c hband
  have hcurrent : appliedCurrent m c d ≤ 1650 := by
    unfold appliedCurrent
    split
    · exact limpCurrent_le hpass c
    · exact Nat.zero_le _
  exact (forwardMap_bounds hrise hcurrent).2.trans hlast

end

/-! ## The stages of a control period -/

theorem selectBand_lt (e1 e2 e3 : Nat) (v : Int) : selectBand e1 e2 e3 v < 4 := by
  unfold selectBand
  repeat' split
  all_goals decide

theorem lawCoefficient_le {m : Memory} {md : Mode} (hrow : modeRowHolds m md) (gate : Nat) (stale sensor : Bool)
    (vBody vRel : Int) : lawCoefficient (modeRow m md) gate stale sensor vBody vRel ≤ 4000 := by
  obtain ⟨hmin, hfallback, hmax, -⟩ := hrow
  unfold lawCoefficient
  repeat' split
  · exact hfallback.trans hmax
  · exact hmin.trans (hfallback.trans hmax)
  · exact Nat.min_le_left _ _

theorem presentation_le {active : Option HeldWindow} {cLaw : Nat} (hlaw : cLaw ≤ 4000)
    (hactive : ∀ h, active = some h → h.win.cFirm ≤ 4000) : presentation active cLaw ≤ 4000 := by
  unfold presentation
  split
  · exact hlaw
  · split
    · exact (Nat.min_le_left _ _).trans hlaw
    · exact (Nat.min_le_left _ _).trans hlaw
    · exact max_le hlaw (hactive _ rfl)
    · exact hlaw
    · exact hlaw

theorem modeLimited_le {m : Memory} {md : Mode} (hrow : modeRowHolds m md) (part : PartState) (cB : Nat) :
    modeLimited (modeRow m md) part cB ≤ 4000 := by
  obtain ⟨-, -, hmax, -⟩ := hrow
  unfold modeLimited
  split
  · exact Nat.zero_le _
  · exact (Nat.min_le_right _ _).trans hmax

theorem rateLimited_le {row : ModeRow} {cC cPrev : Nat} (hC : cC ≤ 4000) (hprev : cPrev ≤ 4000) :
    rateLimited row cC cPrev ≤ 4000 := by
  unfold rateLimited
  split
  · exact (Nat.min_le_left _ _).trans hC
  · exact max_le hC ((Nat.sub_le _ _).trans hprev)

theorem outputCoefficient_le {i : PeriodInputs} (hpass : validate i.mem = .pass) (c : Corner) {band cC cPrev : Nat}
    (hband : band < 4) (hC : cC ≤ 4000) (hprev : cPrev ≤ 4000) : outputCoefficient i c band cC cPrev ≤ 4000 := by
  unfold outputCoefficient
  split
  · exact Nat.zero_le _
  · exact Nat.zero_le _
  · exact rateLimited_le hC hprev
  · exact rateLimited_le hC hprev
  · exact limpCoefficient_le hpass c hband _

theorem targetCurrent_le {i : PeriodInputs} (hpass : validate i.mem = .pass) (c : Corner) {band : Nat} (hband : band < 4)
    (cOut : Nat) : targetCurrent i c band cOut ≤ 1650 := by
  unfold targetCurrent
  split
  · exact limpCurrent_le hpass c
  · exact inverseMap_current hpass c hband _

/-- The results of a corner within their ranges. -/
def ResultsLegal (l : LawResults) : Prop :=
  l.cLaw ≤ 4000 ∧ l.cA ≤ 4000 ∧ l.cB ≤ 4000 ∧ l.cC ≤ 4000 ∧ l.cOut ≤ 4000 ∧ l.cPrev ≤ 4000 ∧ l.band ≤ 3 ∧ l.iTgt ≤ 1650

theorem blankResults_legal : ResultsLegal blankResults := by simp [ResultsLegal, blankResults]

theorem lawStages_legal {i : PeriodInputs} {md : Mode} (c : Corner) (q : Acquisition) {l : LawResults}
    (hpass : i.valid = true → validate i.mem = .pass) (hrow : i.row = modeRow i.mem md)
    (hactive : ∀ h, i.active = some h → h.win.cFirm ≤ 4000) (hfloor : i.motion.floors.get c ≤ 4000)
    (hprev : l.cPrev ≤ 4000) : ResultsLegal (lawStages i c q l) := by
  unfold lawStages
  split
  case isFalse => exact blankResults_legal
  case isTrue hvalid =>
    have hholds := modeRow_holds (hpass hvalid) md
    have hband := selectBand_lt (edge1 i.mem) (edge2 i.mem) (edge3 i.mem) q.vRel
    have hlaw := hrow ▸ lawCoefficient_le hholds (vGate i.mem) i.stale q.sensor
      (if i.stale then 0 else bodyVelocity i.mem c i.motion) q.vRel
    have hA := presentation_le hlaw hactive
    have hB : ∀ cA, cA ≤ 4000 → (if i.stale then cA else max cA (i.motion.floors.get c)) ≤ 4000 := fun cA hA => by
      split
      · exact hA
      · exact max_le hA hfloor
    have hC := fun cB => hrow ▸ modeLimited_le hholds i.part cB
    have hOut := fun cB => outputCoefficient_le (hpass hvalid) c hband (hC cB) hprev
    exact ⟨hlaw, hA, hB _ hA, hC _, hOut _, hOut _, Nat.le_of_lt_succ hband, targetCurrent_le (hpass hvalid) c hband _⟩

/-- At rest a period's c_out is 0 (R34, R25). -/
theorem lawStages_at_rest {i : PeriodInputs} (c : Corner) (q : Acquisition) (l : LawResults)
    (hpart : i.part = .start ∨ i.part = .standby) :
    (lawStages i c q l).cOut = 0 ∧ (lawStages i c q l).cPrev = 0 := by
  rw [lawStages_cPrev, and_self]
  unfold lawStages
  split
  · rcases hpart with hp | hp <;> simp only [outputCoefficient, hp]
  · rfl

/-! ## The latch through the operations of a stage -/

@[simp] theorem driveDropped_latch (d : Drive) : (driveDropped d).latch = d.latch := by
  unfold driveDropped
  split <;> rfl

@[simp] theorem driveSelected_latch (d : Drive) : (driveSelected d).latch = d.latch := by
  unfold driveSelected
  split <;> rfl

@[simp] theorem clearStage_latch (selected drven : Bool) (d : Drive) : (clearStage selected drven d).latch = d.latch := by
  unfold clearStage
  repeat' split
  all_goals rfl

theorem openAndClean_latch (d : Drive) : (openAndClean d).latch = d.latch := by
  unfold openAndClean
  repeat' split
  all_goals rfl

theorem countStatus_latch (d : Drive) : (countStatus d).latch = d.latch := by
  unfold countStatus
  split <;> rfl

theorem regulate_latch (m : Memory) (d : Drive) : (regulate m d).latch = d.latch := by
  unfold regulate
  split
  · unfold overcurrentPeriod
    split <;> rfl
  · rw [openAndClean_latch, countStatus_latch]

@[simp] theorem stagePeriod_latch (m : Memory) (current : Nat) (d : Drive) : (stagePeriod m current d).latch = d.latch := by
  change (periodOutcome m current d).latch = d.latch
  simp only [periodOutcome]
  split
  · exact regulate_latch m _
  · split
    · exact regulate_latch m _
    · rfl
  all_goals rfl

/-! ## One corner, and the windows -/

/-- Results and latch of a corner within their ranges, and 0 at the valve at rest. -/
def CornerLegal (rest : Prop) (l : LawResults) (latch : Nat) : Prop :=
  (ResultsLegal l ∧ latch ≤ 1650) ∧ (rest → l.cOut = 0 ∧ l.cPrev = 0 ∧ latch = 0)

/-- The part is in START or STANDBY. -/
def AtRest (s : State) : Prop := s.sup.part = .start ∨ s.sup.part = .standby

/-- Every corner within its ranges. -/
def CornersTame (s : State) : Prop := ∀ c, CornerLegal (AtRest s) (s.law.get c) (s.drive.get c).latch

/-- The floors and the coefficients of every window within 0..4000. -/
def StoreTame (s : State) : Prop :=
  (∀ c, s.motion.floors.get c ≤ 4000) ∧ ∀ w ∈ s.windows, w.cSoft ≤ 4000 ∧ w.cFirm ≤ 4000

theorem Coefficients_iff (s : State) : (CoefficientsLegal s ∧ RestLegal s) ↔ CornersTame s ∧ StoreTame s := by
  simp only [CoefficientsLegal, RestLegal, CornersTame, CornerLegal, StoreTame, ResultsLegal, AtRest]
  constructor
  · rintro ⟨⟨hc, hstore⟩, hrest⟩
    refine ⟨fun c => ⟨?_, fun h => hrest h c⟩, hstore⟩
    obtain ⟨h1, h2, h3, h4, h5, h6, h7, h8, h9⟩ := hc c
    exact ⟨⟨h1, h2, h3, h4, h5, h6, h7, h8⟩, h9⟩
  · rintro ⟨hc, hstore⟩
    refine ⟨⟨fun c => ?_, hstore⟩, fun h c => (hc c).2 h⟩
    obtain ⟨⟨h1, h2, h3, h4, h5, h6, h7, h8⟩, h9⟩ := (hc c).1
    exact ⟨h1, h2, h3, h4, h5, h6, h7, h8, h9⟩

theorem StoreTame.of_subset {s t : State} (h : StoreTame s) (hfloors : t.motion.floors = s.motion.floors)
    (hsub : ∀ w ∈ t.windows, w ∈ s.windows) : StoreTame t :=
  ⟨fun c => by rw [hfloors]; exact h.1 c, fun w hw => h.2 w (hsub w hw)⟩

theorem StoreTame.active {s : State} (h : StoreTame s) (c : Corner) {x : HeldWindow} (hx : (s.arb.get c).active = some x) :
    x.win.cFirm ≤ 4000 :=
  (h.2 x.win (mem_windows.2 (.inr ⟨c, by simp [Arbiter.held, hx]⟩))).2

theorem StoreTame_change {s t : State} (hchange : Change s t) (h : StoreTame s) : StoreTame t := by
  cases hchange
  case travel =>
    refine ⟨by rw [travelStep_motion]; exact h.1, fun v hv => ?_⟩
    obtain ⟨w, hw, -, ⟨hcarry, -⟩, -⟩ := travelStep_windows hv
    rw [hcarry]
    exact h.2 w hw
  case body b =>
    obtain ⟨-, -, -, -, hfloors, -⟩ := acceptedMotion_bounds b
    exact ⟨hfloors, h.2⟩
  case reset cause held =>
    exact ⟨fun c => (PerCorner.get_replicate 0 c).le.trans (Nat.zero_le _), fun w hw => by rw [reset_windows] at hw; cases hw⟩
  case flush | limp | stopping =>
    exact h.of_subset rfl fun w hw => absurd ((flush_empty s).2.1 ▸ hw : w ∈ []) List.not_mem_nil
  case admitted taken hcheck =>
    refine ⟨h.1, fun w hw => ?_⟩
    rcases List.mem_append.1 ((admitEvent_windows s taken).subset hw) with hw | hw
    · exact h.2 w hw
    · obtain ⟨-, -, -, htake⟩ := admissionCheck_ok hcheck
      obtain ⟨-, hsoft, hfirm⟩ := takeEvent_some htake
      obtain ⟨-, hs, hf, -⟩ := mem_createdWindows hw
      exact ⟨hs ▸ hsoft, hf ▸ hfirm⟩
  case cancel e _ => exact h.of_subset rfl fun w => cancel_windows_subset
  case options o => exact h.of_subset rfl fun w hw => options_windows o s ▸ hw
  case finishDownload data _ _ =>
    obtain ⟨k, q, heq, -⟩ := finishDownload_frame 9 data s
    rw [heq]
    exact h
  all_goals exact h

/-- The latch a period writes (R114): LIMP has a VALID image, and at rest the source is none. -/
theorem latchValue_le {i : PeriodInputs} (hlimp : i.source = .limp → validate i.mem = .pass) (c : Corner) {iTgt : Nat}
    (h : iTgt ≤ 1650) : latchValue i c iTgt ≤ 1650 := by
  unfold latchValue
  split
  case h_1 => exact h
  case h_2 hsource => exact limpCurrent_le (hlimp hsource) c
  case h_3 => exact Nat.zero_le _

theorem sourceOf_limp {p : PartState} (h : sourceOf p = .limp) : p = .limp := by
  cases p <;> first | rfl | cases h

theorem sourceOf_rest {p : PartState} (h : p = .start ∨ p = .standby) : sourceOf p = .none := by
  rcases h with rfl | rfl <;> rfl

/-- A corner's results are legal again where only its c_out and c_prev change. -/
theorem ResultsLegal.output {l : LawResults} (h : ResultsLegal l) {cOut cPrev : Nat} (ho : cOut ≤ 4000)
    (hp : cPrev ≤ 4000) : ResultsLegal { l with cOut := cOut, cPrev := cPrev } := by
  obtain ⟨h1, h2, h3, h4, -, -, h7, h8⟩ := h
  exact ⟨h1, h2, h3, h4, ho, hp, h7, h8⟩

/-- Outside START and STANDBY a corner's ranges do not ask for rest. -/
theorem CornersTame.running {s t : State} (h : CornersTame s) (hpart : t.sup.part ≠ .start ∧ t.sup.part ≠ .standby)
    (hlaw : ∀ c, ResultsLegal (s.law.get c) → ResultsLegal (t.law.get c))
    (hlatch : ∀ c, (s.drive.get c).latch ≤ 1650 → (t.drive.get c).latch ≤ 1650) : CornersTame t :=
  fun c => ⟨⟨hlaw c (h c).1.1, hlatch c (h c).1.2⟩, fun hrest => (hrest.elim hpart.1 hpart.2).elim⟩

theorem State.imageValid_iff {s : State} : s.imageValid = true ↔ imageIsValid s := by simp [State.imageValid]

theorem cornerPeriod_tame {s : State} {c : Corner} (a : BitVec 12) (hlimp : s.sup.part = .limp → imageIsValid s)
    (hsource : s.sup.source.get c = sourceOf s.sup.part) (hpass : imageIsValid s → validate s.cal.working = .pass)
    (hstore : StoreTame s) (hprev : (s.law.get c).cPrev ≤ 4000) :
    CornerLegal (AtRest s) ((cornerPeriod c a s).law.get c) ((cornerPeriod c a s).drive.get c).latch := by
  let q := acquire s.cal.working s.imageValid c a (s.acq.get c)
  let l := lawStages (periodInputs s c) c q (s.law.get c)
  have hlaw : (cornerPeriod c a s).law.get c = l := PerCorner.get_set_self _ _ _
  have hlatch : ((cornerPeriod c a s).drive.get c).latch = latchValue (periodInputs s c) c l.iTgt :=
    congrArg Drive.latch (PerCorner.get_set_self _ _ _)
  have hresults : ResultsLegal l := lawStages_legal (md := s.modes.inForce) c q
    (fun hvalid => hpass (State.imageValid_iff.1 hvalid)) rfl (fun x hx => hstore.active c hx) (hstore.1 c) hprev
  obtain ⟨-, -, -, -, -, -, -, htarget⟩ := id hresults
  have hlimpSource : (periodInputs s c).source = .limp → validate (periodInputs s c).mem = .pass :=
    fun hs => hpass (hlimp (sourceOf_limp (hsource.symm.trans hs)))
  rw [hlaw, hlatch]
  refine ⟨⟨hresults, latchValue_le hlimpSource c htarget⟩, fun hrest => ?_⟩
  have hnone : (periodInputs s c).source = .none := hsource.trans (sourceOf_rest hrest)
  obtain ⟨hout, hprev⟩ := lawStages_at_rest (i := periodInputs s c) c q (s.law.get c) hrest
  exact ⟨hout, hprev, by rw [latchValue, hnone]⟩

theorem CornersTame_change {s t : State} (hchange : Change s t) (hpart : PartLegal s) (hsup : SupervisorLegal s)
    (himage : ImageLegal s) (hstore : StoreTame s) (h : CornersTame s) : CornersTame t := by
  obtain ⟨-, -, hruns, hlimp, -⟩ := hpart
  obtain ⟨-, -, -, -, -, hsource⟩ := hsup
  obtain ⟨-, -, hpass⟩ := himage
  cases hchange
  case cornerPeriod c a _ =>
    intro e
    by_cases heq : e = c
    · subst heq
      obtain ⟨⟨⟨-, -, -, -, -, hprev, -⟩, -⟩, -⟩ := h e
      exact cornerPeriod_tame a hlimp (hsource e) hpass hstore hprev
    · simp only [cornerPeriod, PerCorner.get_set_ne _ _ heq]
      exact h e
  case stage c current =>
    intro e
    simp only [State.setDrive_drive, PerCorner.get_set]
    split
    case isFalse => exact h e
    case isTrue heq =>
      subst heq
      rw [periodStage, stagePeriod_latch]
      exact h e
  case reset cause held =>
    intro c
    rw [show (resetBlocks cause { s with held := held }).law.get c = LawResults.reset from PerCorner.get_replicate _ c,
      show (resetBlocks cause { s with held := held }).drive.get c = Drive.reset from PerCorner.get_replicate _ c]
    exact ⟨⟨blankResults_legal, Nat.zero_le _⟩, fun _ => ⟨rfl, rfl, rfl⟩⟩
  case loadEnd _ hstart => exact fun c => ⟨(h c).1, fun _ => (h c).2 (.inl hstart)⟩
  case clearFaults corners =>
    intro c
    simp only [clearNamed, PerCorner.get_build, clearedStage]
    split
    · rw [clearStage_latch]
      exact h c
    · exact h c
  case standby =>
    intro c
    simp only [enterStandby, PerCorner.get_map]
    exact ⟨⟨(h c).1.1.output (Nat.zero_le _) (Nat.zero_le _), Nat.zero_le _⟩, fun _ => ⟨rfl, rfl, rfl⟩⟩
  case limp r _ hwas =>
    refine h.running ⟨nofun, nofun⟩ (fun c hl => hl) fun c _ => ?_
    simp only [enterLimp, PerCorner.get_build]
    exact limpCurrent_le (hpass (hruns hwas).1) c
  case stopping | returned => exact h.running ⟨nofun, nofun⟩ (fun c hl => hl) fun c hl => hl
  case active =>
    refine h.running ⟨nofun, nofun⟩ (fun c hl => ?_) fun c hl => ?_
    · simp only [enterActive, PerCorner.get_map]
      exact hl.output hl.2.2.2.2.1 (Nat.zero_le _)
    · simpa only [enterActive, PerCorner.get_map, driveSelected_latch] using hl
  case resumed _ hwas _ =>
    refine h.running ⟨nofun, nofun⟩ (fun c hl => ?_) fun c hl => hl
    have hcoefficient := limpCoefficient_le (hpass (hlimp hwas)) c (band := (s.law.get c).band)
      (Nat.lt_succ_of_le hl.2.2.2.2.2.2.1) (s.drive.get c)
    simp only [resumeActive, PerCorner.get_build]
    exact hl.output hcoefficient hcoefficient
  case drvenFall =>
    intro c
    simp only [dropDrives, PerCorner.get_map, driveDropped_latch]
    exact h c
  case drvenRise =>
    intro c
    simp only [PerCorner.get_build, stageRise]
    split
    · rw [driveSelected_latch]
      exact h c
    · exact h c
  case travel => simpa [CornersTame, AtRest] using h
  case finishDownload data _ _ =>
    obtain ⟨k, q, heq, -⟩ := finishDownload_frame 9 data s
    rw [heq]
    exact h
  all_goals exact h

/-- Settles O60: with the image passing where it is VALID and each source that of the part state, each period and
transition keeps coefficients and currents within their ranges. -/
theorem everyStepKeepsTheCoefficients : Obligations.EveryStepKeepsTheCoefficients := by
  rintro s t ⟨hpart, hsup, himage, hdownload, hcoefficients⟩ hrun
  rw [Coefficients_iff] at hcoefficients ⊢
  obtain ⟨-, -, -, -, hlegal⟩ := step_keeps
    (P := fun s => PartLegal s ∧ SupervisorLegal s ∧ ImageLegal s ∧ DownloadLegal s ∧ CornersTame s ∧ StoreTame s)
    (fun _ _ hchange ⟨hpart, hsup, himage, hdownload, hcorners, hstore⟩ => ⟨PartLegal_change hchange hpart,
      SupervisorLegal_change hchange hsup, ImageLegal_change hchange hdownload himage,
      DownloadLegal_change hchange hpart hdownload, CornersTame_change hchange hpart hsup himage hstore hcorners,
      StoreTame_change hchange hstore⟩)
    hrun ⟨hpart, hsup, himage, hdownload, hcoefficients⟩
  exact hlegal

end Sys2Proof.Machine
end

section
/-! PROOFS. The queue, the resets, the part held in reset, the START load and the STOPPING timer; the live indications. -/

namespace Sys2Proof.Machine

open Sys2Proof

/-- Settles O1. -/
theorem stepRunsFrontCommand : Obligations.StepRunsFrontCommand := by
  intro i rest s hpending
  rw [step, hpending]

/-- Settles O14: the timer's own step, and freshness as the conjunction of its two conditions. -/
theorem bodyAgeRunsAndDecidesFreshness : Obligations.BodyAgeRunsAndDecidesFreshness := by
  refine ⟨fun s hheld => whenRunning_running hheld, fun s => ?_⟩
  rw [State.bodyFresh, Bool.and_eq_true, State.imageValid_iff, decide_eq_true_iff]

/-! ## Indications -/

theorem faultSummary_iff (s : State) (c : Corner) : s.faultSummary c = true ↔
    (s.drive.get c).state = .faultOpen ∨ (s.drive.get c).state = .faultShort ∨
    ((s.drive.get c).regLow = true ∧ (s.arb.get c).reportRegLow = true) ∨
    ((s.acq.get c).sensor = true ∧ (s.arb.get c).reportSensor = true) := by
  have hhard : (s.drive.get c).state.isHardFault = true ↔
      (s.drive.get c).state = .faultOpen ∨ (s.drive.get c).state = .faultShort := by
    cases (s.drive.get c).state <;> simp [DriveState.isHardFault]
  simp only [State.faultSummary, summaryOf, Bool.or_eq_true, Bool.and_eq_true, hhard, or_assoc]

theorem atnLow_iff (s : State) : s.atnLow = true ↔ s.sup.linkErr = true ∨ s.sup.restarted = true ∨
    s.sup.limpEntered = true ∨ s.sup.faultNew = true ∨ s.sched.completions ≠ [] := by
  simp only [State.atnLow, State.noticePending, State.completionsWaiting, Bool.or_eq_true, Bool.not_eq_true',
    List.isEmpty_eq_false_iff, or_assoc]

/-- The fields of a condition code, from what it is made of (section 11.2). -/
theorem conditionCode_fields (part : PartState) (mode : Mode) (notice fresh valid : Bool) :
    let code : Byte := BitVec.ofNat 8 (part.code + 8 * bit notice + 16 * bit fresh + 32 * mode.code + 128 * bit valid)
    (code.extractLsb' 0 3).toNat = part.code ∧ code.getLsbD 3 = notice ∧ code.getLsbD 4 = fresh ∧
      (code.extractLsb' 5 2).toNat = mode.code ∧ code.getLsbD 7 = valid := by
  cases part <;> cases mode <;> revert notice fresh valid <;> decide

/-- Settles O41: each indication is read off the fields it is computed from. -/
theorem indicationsFollowTheState : Obligations.IndicationsFollowTheState := by
  intro s
  obtain ⟨hpart, hnotice, hfresh, hmode, hvalid⟩ :=
    conditionCode_fields s.sup.part s.modes.inForce s.noticePending s.bodyFresh s.imageValid
  exact ⟨faultSummary_iff s, atnLow_iff s, hpart, iff_of_eq (congrArg (· = true) hnotice),
    iff_of_eq (congrArg (· = true) hfresh), hmode, (iff_of_eq (congrArg (· = true) hvalid)).trans State.imageValid_iff⟩

/-! ## Resets -/

/-- Settles O52: the reset state is at rest, its store and its images are empty, and every count is 0. -/
theorem resetMeetsEveryLaw : Obligations.ResetMeetsEveryLaw := by
  have hwindows : State.reset.windows = [] := rfl
  have hcoefficients : CoefficientsLegal State.reset ∧ RestLegal State.reset := by
    rw [Coefficients_iff]
    refine ⟨fun c => ?_, fun c => (PerCorner.get_replicate 0 c).le.trans (Nat.zero_le _), fun w hw => ?_⟩
    · rw [show State.reset.law.get c = LawResults.reset from PerCorner.get_replicate _ c,
        show State.reset.drive.get c = Drive.reset from PerCorner.get_replicate _ c]
      exact ⟨⟨blankResults_legal, Nat.zero_le _⟩, fun _ => ⟨rfl, rfl, rfl⟩⟩
    · rw [hwindows] at hw
      cases hw
  refine ⟨?part, ?sup, ⟨Memory.wf_nil, Memory.wf_nil, nofun⟩, ⟨by decide, nofun⟩, fun c => ?drives, ?tags,
    WindowsLegal_of_empty ⟨rfl, rfl⟩, ReachLegal_of_empty rfl, fun _ => ⟨rfl, rfl, rfl⟩, fun c => ?arbiters,
    fun c => ?acquisitions, resetCounts_legal .power State.reset, hcoefficients⟩
  case part => simp [PartLegal, State.reset, Supervisor.reset, CalStore.reset]
  case sup => simp [SupervisorLegal, State.reset, Supervisor.reset, sourceOf]
  case drives =>
    rw [show State.reset.drive.get c = Drive.reset from PerCorner.get_replicate _ c]
    exact ⟨reset_stage_legal _, fun _ => rfl⟩
  case tags => simp [TagsLegal, State.reset, Scheduler.reset]
  case arbiters =>
    rw [show State.reset.arb.get c = Arbiter.reset from PerCorner.get_replicate _ c]
    simp [ArbiterLegal, Arbiter.reset]
  case acquisitions =>
    rw [show State.reset.acq.get c = Acquisition.reset from PerCorner.get_replicate _ c]
    simp [AcquisitionLegal, Acquisition.reset]

theorem resetBlocks_reset (cause : RestartCause) (s : State) : blocksReset cause .idle (resetBlocks cause s) :=
  ⟨fun c => PerCorner.get_replicate _ c, fun c => PerCorner.get_replicate _ c, fun c => PerCorner.get_replicate _ c,
    fun c => PerCorner.get_replicate _ c, rfl, rfl, rfl, rfl, rfl, rfl, rfl, rfl, rfl, rfl, rfl, rfl⟩

theorem supplyReset_reset (cause : RestartCause) (s : State) :
    blocksReset cause (receiveAfterCut s) (supplyReset cause s) := by
  rw [supplyReset_eq]
  exact ⟨fun c => PerCorner.get_replicate _ c, fun c => PerCorner.get_replicate _ c, fun c => PerCorner.get_replicate _ c,
    fun c => PerCorner.get_replicate _ c, rfl, rfl, rfl, rfl, rfl, rfl, rfl, rfl, rfl, rfl, rfl, rfl⟩

/-- With no store running a reset keeps the nonvolatile image and draws nothing from the model's count. -/
theorem resetBlocks_kept {cause : RestartCause} {s : State} (hidle : s.cal.store = .idle) :
    (resetBlocks cause s).cal.nv = s.cal.nv ∧ (resetBlocks cause s).freeCount = s.freeCount := by
  have hnot : s.cal.store ≠ .busy := by simp [hidle]
  exact ⟨if_neg hnot, if_neg hnot⟩

/-- Settles O3: the two supply resets and RESTART are the reset of the blocks; a supply reset also cuts the select period. -/
theorem resetsLeaveTheResetValues : Obligations.ResetsLeaveTheResetValues := by
  intro s h hidle
  refine ⟨?power, fun hheld => ?brownout, fun hheld hfit => ?restart⟩
  case power =>
    obtain ⟨hnv, hcount⟩ := resetBlocks_kept (cause := .power) (s := { s with held := false }) hidle
    exact ⟨_, rfl, supplyReset_reset .power { s with held := false }, hnv, rfl, rfl, rfl, rfl, hcount, rfl⟩
  case brownout =>
    obtain ⟨hnv, hcount⟩ := resetBlocks_kept (cause := .brownout) (s := { s with held := true }) hidle
    have hrun : exec .brownoutReset s = .next (supplyReset .brownout { s with held := true }) := by
      simp [exec, execBrownoutReset, brownout, hheld]
    exact ⟨_, hrun, supplyReset_reset .brownout { s with held := true }, hnv, rfl, rfl, rfl, rfl, hcount, rfl⟩
  case restart =>
    obtain ⟨hnv, hcount⟩ := resetBlocks_kept (cause := .requested) (s := received .restart h s) hidle
    exact ⟨_, transact_performs performRestart (i := .restart h) rfl hheld hfit,
      resetBlocks_reset .requested (received .restart h s), hnv, rfl, hheld, rfl, rfl, hcount, rfl⟩

/-! ## A part held in reset -/

/-- What a command leaves of a part held in reset (R141, R158). -/
def HeldOutcome (i : Instr) (s : State) : Prop :=
  ∃ t, exec i s = .next t ∧ t = { s with sdo := t.sdo, link := { s.link with receive := t.link.receive } } ∧
    ((requestParts i).isSome = true ∨ (∃ bits, i = .invalidFrame (.ended bits)) →
      t.sdo = [] ∧ t.link.receive = .idle) ∧
    ((∃ bits, i = .invalidFrame (.inProgress bits)) → t.sdo = [] ∧ t.link.receive = .barred) ∧
    (requestParts i = none → (∀ f, i ≠ .invalidFrame f) → t = s)

theorem heldOutcome_nothing {i : Instr} {s : State} (hrun : exec i s = .next s) (hparts : requestParts i = none)
    (hframe : ∀ f, i ≠ .invalidFrame f) : HeldOutcome i s := by
  refine ⟨s, hrun, rfl, fun h => ?_, fun ⟨bits, h⟩ => absurd h (hframe _), fun _ _ => rfl⟩
  rcases h with h | ⟨bits, h⟩
  · rw [hparts] at h
    cases h
  · exact absurd h (hframe _)

theorem heldOutcome_request {i : Instr} {s : State} (hrun : exec i s = .next (letPass .idle s))
    (hparts : (requestParts i).isSome = true) (hframe : ∀ f, i ≠ .invalidFrame f) : HeldOutcome i s := by
  refine ⟨_, hrun, rfl, fun _ => ⟨rfl, rfl⟩, fun ⟨bits, h⟩ => absurd h (hframe _), fun h => ?_⟩
  rw [h] at hparts
  cases hparts

theorem heldOutcome (i : Instr) {s : State} (hheld : s.held = true) (hpower : i ≠ .powerOnReset)
    (hrecovery : i ≠ .vddRecovery) (hfall : i ≠ .drvenFall) (hrise : i ≠ .drvenRise) : HeldOutcome i s := by
  cases i
  case powerOnReset => exact absurd rfl hpower
  case vddRecovery => exact absurd rfl hrecovery
  case drvenFall => exact absurd rfl hfall
  case drvenRise => exact absurd rfl hrise
  case brownoutReset =>
    exact heldOutcome_nothing (by simp [exec, execBrownoutReset, brownout, hheld]) rfl nofun
  case invalidFrame f =>
    cases f
    case ended bits =>
      have hrun : exec (.invalidFrame (.ended bits)) s = .next (letPass .idle s) := by
        simp [exec, execInvalidFrame, selectPart, hheld]
      exact ⟨_, hrun, rfl, fun _ => ⟨rfl, rfl⟩, nofun, fun _ h => absurd rfl (h _)⟩
    case inProgress bits =>
      have hrun : exec (.invalidFrame (.inProgress bits)) s = .next (letPass .barred s) := by
        simp [exec, execInvalidFrame, hheld]
      refine ⟨_, hrun, rfl, fun h => ?_, fun _ => ⟨rfl, rfl⟩, fun _ h => absurd rfl (h _)⟩
      rcases h with h | ⟨_, h⟩ <;> cases h
  case startLoadEnd | controlPeriod | sensorFaultSet | sensorFaultClear | bodyAgeTick | travelStep | eventAgeExpiry
    | orphanAgeExpiry | drivePeriod | openCoilDetected | retryTimerExpiry | cleanRunExpiry | regLowSet | regLowClear
    | stoppingTimerExpiry | silenceTimerTick | linkSilenceExpiry | storeEnd =>
    exact heldOutcome_nothing (whenRunning_held hheld) rfl nofun
  all_goals exact heldOutcome_request (transact_held _ hheld) rfl nofun

/-- Settles O4: by kind of command; only the resets, the recovery and the DRVEN level reach a held part. -/
theorem heldPartTakesNothing : Obligations.HeldPartTakesNothing := by
  refine ⟨fun i s hheld hpower hrecovery hfall hrise => heldOutcome i hheld hpower hrecovery hfall hrise,
    fun s hheld => ⟨?_, ?_, ?_⟩, fun s hheld => ?_⟩
  · simp [exec, execDrvenFall, takeDrvenFall, hheld]
  · simp [exec, execDrvenRise, takeDrvenRise, hheld]
  · simp only [exec, execVddRecovery, release, hheld, if_true, ReceiveState.cut_eq]
    rfl
  · simp [exec, execVddRecovery, release, hheld]

/-! ## The START load -/

theorem loadedState_eq (nv : Memory) (mark : Bool) :
    loadedState nv mark = if mark = true ∧ validate nv = .pass then .valid else .invalid := by
  simp only [loadedState, Bool.and_eq_true, beq_iff_eq]

/-- Settles O5. -/
theorem startLoadDecidesTheImage : Obligations.StartLoadDecidesTheImage := by
  intro s hheld
  refine ⟨fun hpart => ⟨loadEnd s, whenOccurs_at hheld (by simp [loading, hpart]), ?_, fun c => ?_, rfl⟩,
    fun hpart => whenOccurs_not (by simp [loading, hpart])⟩
  · simp only [loadEnd, setImageState, loadedState_eq]
  · exact setImageState_acq _ s c

/-! ## The STOPPING timer -/

theorem step_idle {s : State} (hpending : s.pending = []) : step s = .next (stoppingTick s) := by
  rw [step, hpending]

/-- Settles O2: the idle step is `stoppingTick`, and the row is the entry to STANDBY where the timer runs. -/
theorem stoppingTimerEndsStopping : Obligations.StoppingTimerEndsStopping := by
  refine ⟨fun s hpending => ?_, fun s hheld => ⟨fun hpart htimer => ?_, fun hpart => whenOccurs_not ?_⟩⟩
  · rw [step_idle hpending]
    refine ⟨fun hquiet => ?_, fun n htimer hheld hn => ?_, fun htimer hheld hpart => ?_⟩
    · rcases hquiet with hquiet | hquiet
      · simp [stoppingTick, hquiet]
      · cases htimer : s.sup.stoppingTimer <;> simp [stoppingTick, htimer, hquiet]
    · simp [stoppingTick, htimer, hheld, stoppingLimit, hn, State.setSup]
    · refine ⟨enterStandby s, ?_, enterStandby_entered s, enterStandby_linkKept s⟩
      simp [stoppingTick, htimer, hheld, stoppingLimit, hpart]
  · refine ⟨enterStandby s, whenOccurs_at hheld ?_, enterStandby_entered s, enterStandby_linkKept s⟩
    simp [stoppingRuns, hpart, Option.isSome_iff_ne_none, htimer]
  · simp [stoppingRuns, hpart]

end Sys2Proof.Machine
end

section
/-! PROOFS. Control periods: the stages of acquisition and of the law, and what a period changes besides its corner. -/

namespace Sys2Proof.Machine

open Sys2Proof

/-! ## Acquisition -/

theorem goodSample_iff (a : BitVec 12) : goodSample a = true ↔ 100 ≤ a.toNat ∧ a.toNat ≤ 3995 := by
  simp [goodSample]

/-- What counting and calibration leave for the filter stage (R3, R4). -/
def countedSample (m : Memory) (valid : Bool) (c : Corner) (a : BitVec 12) (q : Acquisition) : Acquisition :=
  let counted := countSample (goodSample a) { q with adc := some a }
  if goodSample a && valid then { counted with x := calibrate (travelZero m c) (travelGain m c) a } else counted

theorem acquire_eq (m : Memory) (valid : Bool) (c : Corner) (a : BitVec 12) (q : Acquisition) :
    acquire m valid c a q = filterStage (goodSample a) valid (filterAlpha m) (countedSample m valid c a q) := rfl

/-- Counting of a good sample; SENSOR clears, and with it the filter, at the twentieth (R3, R5). -/
theorem countSample_good (q : Acquisition) :
    (countSample true q).bad = 0 ∧ (countSample true q).good = min 20 (q.good + 1) ∧
      ((countSample true q).sensor = true ↔ q.sensor = true ∧ min 20 (q.good + 1) ≠ 20) ∧
      (countSample true q).filter = if q.sensor = true ∧ (countSample true q).sensor = false then none else q.filter := by
  simp only [countSample, if_true]
  by_cases h : (q.sensor && min 20 (q.good + 1) == 20) = true
  · rw [if_pos h]
    simp only [Bool.and_eq_true, beq_iff_eq] at h
    simp [h.1, h.2]
  · rw [if_neg h]
    simp only [Bool.and_eq_true, beq_iff_eq, not_and] at h
    cases hs : q.sensor
    · simp
    · simpa using h hs

/-- Counting of a sample out of range; SENSOR is set at the third (R3). -/
theorem countSample_bad (q : Acquisition) :
    (countSample false q).good = 0 ∧ (countSample false q).bad = min 3 (q.bad + 1) ∧
      ((countSample false q).sensor = true ↔ q.sensor = true ∨ min 3 (q.bad + 1) = 3) ∧
      (countSample false q).filter = q.filter := by
  simp [countSample]

theorem countSample_keeps (good : Bool) (q : Acquisition) :
    (countSample good q).adc = q.adc ∧ (countSample good q).x = q.x ∧ (countSample good q).vRel = q.vRel := by
  simp only [countSample]
  repeat' split
  all_goals exact ⟨rfl, rfl, rfl⟩

theorem countedSample_keeps (m : Memory) (valid : Bool) (c : Corner) (a : BitVec 12) (q : Acquisition) :
    let k := countedSample m valid c a q
    let n := countSample (goodSample a) { q with adc := some a }
    k.adc = some a ∧ k.vRel = q.vRel ∧ k.bad = n.bad ∧ k.good = n.good ∧ k.sensor = n.sensor ∧ k.filter = n.filter ∧
      k.x = if goodSample a = true ∧ valid = true then calibrate (travelZero m c) (travelGain m c) a else q.x := by
  obtain ⟨hadc, hx, hv⟩ := countSample_keeps (goodSample a) { q with adc := some a }
  unfold countedSample
  cases hgood : goodSample a <;> cases valid <;> simp_all

/-- The filter stage changes filter and v_rel alone. -/
theorem filterStage_keeps (good valid : Bool) (alpha : Nat) (q : Acquisition) :
    let r := filterStage good valid alpha q
    r.adc = q.adc ∧ r.x = q.x ∧ r.bad = q.bad ∧ r.good = q.good ∧ r.sensor = q.sensor := by
  unfold filterStage
  repeat' split
  all_goals exact ⟨rfl, rfl, rfl, rfl, rfl⟩

theorem filterStage_off {good valid : Bool} {alpha : Nat} {q : Acquisition} (h : valid = false ∨ q.sensor = true) :
    filterStage good valid alpha q = { q with vRel := 0 } := by
  rw [filterStage, if_pos (by rcases h with h | h <;> simp [h])]

theorem filterStage_good {alpha : Nat} {q : Acquisition} (hsensor : q.sensor = false) :
    filterStage true true alpha q =
      match q.filter with
      | none => { q with filter := some { value := 16 * q.x, previous := 16 * q.x }, vRel := 0 }
      | some f => { q with filter := some (filterStep alpha q.x f), vRel := relativeVelocity (filterStep alpha q.x f) } := by
  rw [filterStage, if_neg (by simp [hsensor])]
  rfl

theorem filterStage_bad {alpha : Nat} {q : Acquisition} (hsensor : q.sensor = false) :
    filterStage false true alpha q = { q with vRel := if q.filter = none then 0 else q.vRel } := by
  obtain ⟨adc, x, filter, v, bad, good, sensor⟩ := q
  subst hsensor
  cases filter <;> rfl

/-! ## The period around it -/

theorem controlPeriod_runs {s : State} (c : Corner) (a : BitVec 12) (hheld : s.held = false) :
    exec (.controlPeriod c a) s = .next (controlPeriod c a s) := whenRunning_running hheld

/-- A corner's acquisition after a control period. -/
def periodAcquired (c : Corner) (a : BitVec 12) (s : State) : Acquisition :=
  acquire s.cal.working s.imageValid c a (s.acq.get c)

/-- A corner's results after a control period. -/
def periodResults (c : Corner) (a : BitVec 12) (s : State) : LawResults :=
  lawStages (periodInputs s c) c (periodAcquired c a s) (s.law.get c)

/-- A control period before the end of STOPPING is looked at. -/
def periodNoted (c : Corner) (a : BitVec 12) (s : State) : State := noteFaultRise s (cornerPeriod c a s)

section
variable (c : Corner) (a : BitVec 12) (s : State)

theorem periodNoted_eq : periodNoted c a s = { s with
    acq := s.acq.set c (periodAcquired c a s),
    law := s.law.set c (periodResults c a s),
    drive := s.drive.set c { s.drive.get c with
      latch := latchValue (periodInputs s c) c (periodResults c a s).iTgt },
    sup := { s.sup with faultNew := s.sup.faultNew || (!s.faultSummary c && (cornerPeriod c a s).faultSummary c) } } := by
  rw [periodNoted, noteFaultRise_eq, summaryRises_one fun d hd => cornerPeriod_faultSummary_ne s c a hd]
  rfl

@[simp] theorem periodNoted_part : (periodNoted c a s).sup.part = s.sup.part := by rw [periodNoted_eq]

variable {s} (hpart : s.sup.part ≠ .start)
include hpart

theorem controlPeriod_noted : controlPeriod c a s = endStoppingAtRest (periodNoted c a s) := controlPeriod_eq hpart

theorem controlPeriod_acq : (controlPeriod c a s).acq = s.acq.set c (periodAcquired c a s) := by
  rw [controlPeriod_noted c a hpart, endStoppingAtRest_acq, periodNoted_eq]

/-- The corner's results stand also where the period ends STOPPING: its c_out and c_prev are then 0 already. -/
theorem controlPeriod_law : (controlPeriod c a s).law.get c = periodResults c a s := by
  have hnoted : (periodNoted c a s).law.get c = periodResults c a s := by rw [periodNoted_eq, PerCorner.get_set_self]
  rw [controlPeriod_noted c a hpart]
  rcases endStoppingAtRest_eq (periodNoted c a s) with ⟨-, hrest, heq⟩ | ⟨-, heq⟩
  · have hzero : (periodResults c a s).cOut = 0 := hnoted ▸ hrest c
    have hprev : (periodResults c a s).cPrev = 0 := (lawStages_cPrev _ _ _ _).trans hzero
    rw [heq, (enterStandby_entered _).2.2.1 c, hnoted]
    calc ({ periodResults c a s with cOut := 0, cPrev := 0 } : LawResults)
        = { periodResults c a s with cOut := (periodResults c a s).cOut, cPrev := (periodResults c a s).cPrev } := by
          rw [hzero, hprev]
      _ = periodResults c a s := rfl
  · rw [heq, hnoted]

end

/-! ## Acquisition of a period (R3 to R7) -/

/-- Counts, SENSOR and travel after a period are those the counting left; the filter stage starts from its filter. -/
theorem periodAcquired_counted (c : Corner) (a : BitVec 12) (s : State) :
    let q := s.acq.get c
    let r := periodAcquired c a s
    let n := countSample (goodSample a) { q with adc := some a }
    r.adc = some a ∧ r.bad = n.bad ∧ r.good = n.good ∧ r.sensor = n.sensor ∧
      r.x = if goodSample a = true ∧ s.imageValid = true then
        calibrate (travelZero s.cal.working c) (travelGain s.cal.working c) a else q.x := by
  obtain ⟨hadc, hx, hbad, hgood, hsensor⟩ := filterStage_keeps (goodSample a) s.imageValid (filterAlpha s.cal.working)
    (countedSample s.cal.working s.imageValid c a (s.acq.get c))
  obtain ⟨kadc, -, kbad, kgood, ksensor, -, kx⟩ :=
    countedSample_keeps s.cal.working s.imageValid c a (s.acq.get c)
  exact ⟨hadc.trans kadc, hbad.trans kbad, hgood.trans kgood, hsensor.trans ksensor, hx.trans kx⟩

/-- The filter a period's filter stage starts from (R5). -/
def keptFilter (q r : Acquisition) : Option Filter := if q.sensor = true ∧ r.sensor = false then none else q.filter

theorem countSample_filter (good : Bool) (q : Acquisition) :
    (countSample good q).filter = keptFilter q (countSample good q) := by
  cases good
  · obtain ⟨-, -, hsensor, hfilter⟩ := countSample_bad q
    rw [hfilter, keptFilter, if_neg]
    rintro ⟨hq, hr⟩
    rw [hsensor.2 (.inl hq)] at hr
    cases hr
  · exact (countSample_good q).2.2.2

/-- Filter and v_rel after a period, by what it found (R5 to R7). -/
theorem periodAcquired_filter (c : Corner) (a : BitVec 12) (s : State) :
    let q := s.acq.get c
    let r := periodAcquired c a s
    (s.imageValid = false ∨ r.sensor = true → r.filter = keptFilter q r ∧ r.vRel = 0) ∧
    (s.imageValid = true → r.sensor = false → goodSample a = true →
      (keptFilter q r = none → r.filter = some { value := 16 * r.x, previous := 16 * r.x } ∧ r.vRel = 0) ∧
      ∀ f, keptFilter q r = some f → r.filter = some (filterStep (filterAlpha s.cal.working) r.x f) ∧
        r.vRel = relativeVelocity (filterStep (filterAlpha s.cal.working) r.x f)) ∧
    (s.imageValid = true → r.sensor = false → goodSample a = false →
      r.filter = keptFilter q r ∧ r.vRel = if keptFilter q r = none then 0 else q.vRel) := by
  obtain ⟨-, -, -, hsensor, -⟩ := periodAcquired_counted c a s
  obtain ⟨-, kv, -, -, ksensor, kfilter, -⟩ := countedSample_keeps s.cal.working s.imageValid c a (s.acq.get c)
  have hkept : (countedSample s.cal.working s.imageValid c a (s.acq.get c)).filter =
      keptFilter (s.acq.get c) (periodAcquired c a s) := by
    rw [kfilter, countSample_filter, keptFilter, keptFilter, hsensor]
  have hequal := ksensor.trans hsensor.symm
  dsimp only
  rw [← hkept, ← kv, ← hequal]
  have heq : periodAcquired c a s = filterStage (goodSample a) s.imageValid (filterAlpha s.cal.working)
    (countedSample s.cal.working s.imageValid c a (s.acq.get c)) := rfl
  generalize hk : countedSample s.cal.working s.imageValid c a (s.acq.get c) = k at *
  rw [heq]
  refine ⟨fun hoff => ?_, fun hvalid hs hgood => ?_, fun hvalid hs hgood => ?_⟩
  · rw [filterStage_off hoff]
    exact ⟨rfl, rfl⟩
  · rw [hvalid, hgood, filterStage_good hs]
    refine ⟨fun hf => ?_, fun f hf => ?_⟩ <;> rw [hf] <;> exact ⟨rfl, rfl⟩
  · rw [hvalid, hgood, filterStage_bad hs]
    exact ⟨rfl, rfl⟩

/-- Settles O6: counting and calibration by the sample, then the filter stage by what they left. -/
theorem periodAcquiresTravel : Obligations.PeriodAcquiresTravel := by
  intro c a s hheld hpart
  refine ⟨controlPeriod c a s, controlPeriod_runs c a hheld, ?_⟩
  have hget : (controlPeriod c a s).acq.get c = periodAcquired c a s := by
    rw [controlPeriod_acq c a hpart, PerCorner.get_set_self]
  have hother : ∀ d, d ≠ c → (controlPeriod c a s).acq.get d = s.acq.get d := fun d hd => by
    rw [controlPeriod_acq c a hpart, PerCorner.get_set_ne _ _ hd]
  dsimp only
  rw [hget]
  obtain ⟨hadc, hbad, hgoodCount, hsensor, hx⟩ := periodAcquired_counted c a s
  obtain ⟨hoff, hgoodFilter, hbadFilter⟩ := periodAcquired_filter c a s
  rw [← keptFilter]
  simp only [← goodSample_iff, ← State.imageValid_iff]
  refine ⟨hadc, fun hgood => ?_, fun hgood => ?_, fun hgood hvalid => ?_, fun hnot => ?_,
    fun hgood hs hvalid => (hgoodFilter hvalid hs hgood).1, fun hgood hs hvalid f hf => ?_, fun hnot => ?_,
    fun hrest => ?_, fun hgood hs hvalid => ?_, hother⟩
  · obtain ⟨h0, h1, h2, -⟩ := countSample_good { s.acq.get c with adc := some a }
    rw [hgood] at hbad hgoodCount hsensor
    rw [hbad, hgoodCount, hsensor]
    exact ⟨h0, h1, h1 ▸ h2⟩
  · obtain ⟨h0, h1, h2, -⟩ := countSample_bad { s.acq.get c with adc := some a }
    rw [Bool.eq_false_iff.2 hgood] at hbad hgoodCount hsensor
    rw [hbad, hgoodCount, hsensor]
    exact ⟨h0, h1, h1 ▸ h2⟩
  · rw [hx, if_pos ⟨hgood, hvalid⟩, calibrate, clampInt_eq _ _ _ (by decide)]
    rfl
  · rw [hx, if_neg hnot]
  · obtain ⟨hfilter, hv⟩ := (hgoodFilter hvalid hs hgood).2 f hf
    exact ⟨_, hfilter, rfl, rfl, by rw [hv, relativeVelocity, clampInt_eq _ _ _ (by decide)]⟩
  · by_cases hrest : s.imageValid = false ∨ (periodAcquired c a s).sensor = true
    · exact (hoff hrest).1
    · rw [not_or, Bool.not_eq_false, Bool.not_eq_true] at hrest
      obtain ⟨hvalid, hs⟩ := hrest
      exact (hbadFilter hvalid hs (Bool.eq_false_iff.2 fun hgood => hnot ⟨hgood, hs, hvalid⟩)).1
  · exact (hoff (hrest.symm.imp_left Bool.eq_false_iff.2)).2
  · exact (hbadFilter hvalid hs (Bool.eq_false_iff.2 hgood)).2

/-- The occasion of a SENSOR row, read off the coming period. -/
theorem sensorOccasion_eq (c : Corner) (a : BitVec 12) (now next : Bool) {s : State} (hpart : s.sup.part ≠ .start) :
    sensorOccasion c a now next s = ((s.acq.get c).sensor == now && (periodAcquired c a s).sensor == next) := by
  rw [sensorOccasion, controlPeriod_acq c a hpart, PerCorner.get_set_self]

/-- SENSOR after a period (R3). -/
theorem periodAcquired_sensor (c : Corner) (a : BitVec 12) (s : State) :
    (goodSample a = true → ((periodAcquired c a s).sensor = true ↔
      (s.acq.get c).sensor = true ∧ min 20 ((s.acq.get c).good + 1) ≠ 20)) ∧
    (goodSample a = false → ((periodAcquired c a s).sensor = true ↔
      (s.acq.get c).sensor = true ∨ min 3 ((s.acq.get c).bad + 1) = 3)) := by
  obtain ⟨-, -, -, hsensor, -⟩ := periodAcquired_counted c a s
  refine ⟨fun hgood => ?_, fun hgood => ?_⟩ <;> rw [hsensor, hgood]
  · exact (countSample_good _).2.2.1
  · exact (countSample_bad _).2.2.1

/-- Settles O7: a row is the control period exactly where the coming period takes SENSOR from one level to the other. -/
theorem sensorFaultRows : Obligations.SensorFaultRows := by
  intro c a s hheld hpart
  dsimp only
  simp only [← goodSample_iff, ← State.imageValid_iff, Bool.not_eq_true]
  obtain ⟨-, hbad, hgoodCount, -, -⟩ := periodAcquired_counted c a s
  obtain ⟨hoff, hgoodFilter, -⟩ := periodAcquired_filter c a s
  obtain ⟨hgoodSensor, hbadSensor⟩ := periodAcquired_sensor c a s
  have hget : (controlPeriod c a s).acq.get c = periodAcquired c a s := by
    rw [controlPeriod_acq c a hpart, PerCorner.get_set_self]
  have hset := sensorOccasion_eq c a false true hpart
  have hclear := sensorOccasion_eq c a true false hpart
  refine ⟨fun hs hcount hgood => ?_, fun hs hcount hgood => ?_, fun hnot => whenOccurs_not ?_,
    fun hnot => whenOccurs_not ?_⟩
  · have hset1 : (periodAcquired c a s).sensor = true := (hbadSensor hgood).2 (.inr (by omega))
    have hrun : exec (.sensorFaultSet c a) s = .next (controlPeriod c a s) :=
      whenOccurs_at hheld (by rw [hset, hs, hset1]; rfl)
    refine ⟨hrun.trans (controlPeriod_runs c a hheld).symm, _, hrun, ?_⟩
    obtain ⟨hfilter, hv⟩ := hoff (.inr hset1)
    rw [hget]
    refine ⟨hset1, ?_, ?_, hv⟩
    · rw [hbad, hgood, (countSample_bad _).2.1, hcount]
      rfl
    · rw [hfilter, keptFilter, if_neg]
      simp [hs]
  · have hclear1 : (periodAcquired c a s).sensor = false :=
      Bool.eq_false_iff.2 fun h => ((hgoodSensor hgood).1 h).2 (by omega)
    have hkept : keptFilter (s.acq.get c) (periodAcquired c a s) = none := if_pos ⟨hs, hclear1⟩
    have hrun : exec (.sensorFaultClear c a) s = .next (controlPeriod c a s) :=
      whenOccurs_at hheld (by rw [hclear, hs, hclear1]; rfl)
    refine ⟨hrun.trans (controlPeriod_runs c a hheld).symm, _, hrun, ?_⟩
    rw [hget]
    refine ⟨hclear1, ?_, fun hvalid => ((hgoodFilter hvalid hclear1 hgood).1 hkept).1, ?_⟩
    · rw [hgoodCount, hgood, (countSample_good _).2.1, hcount]
      rfl
    · cases hvalid : s.imageValid
      · exact (hoff (.inl hvalid)).2
      · exact ((hgoodFilter hvalid hclear1 hgood).1 hkept).2
  · rw [hset, Bool.and_eq_false_iff, beq_eq_false_iff_ne, beq_eq_false_iff_ne]
    by_cases hs : (s.acq.get c).sensor = true
    · exact .inl (by simp [hs])
    refine .inr fun hrise => ?_
    cases hgood : goodSample a
    · have hthird := ((hbadSensor hgood).1 hrise).resolve_left hs
      rcases hnot with h | h | h
      · exact hs h
      · rw [hgood] at h
        cases h
      · omega
    · exact hs ((hgoodSensor hgood).1 hrise).1
  · rw [hclear, Bool.and_eq_false_iff, beq_eq_false_iff_ne, beq_eq_false_iff_ne]
    by_cases hs : (s.acq.get c).sensor = true
    · refine .inr fun hfall => ?_
      have hstays : (periodAcquired c a s).sensor = true := by
        cases hgood : goodSample a
        · exact (hbadSensor hgood).2 (.inl hs)
        · refine (hgoodSensor hgood).2 ⟨hs, ?_⟩
          rcases hnot with h | h | h
          · rw [hs] at h
            cases h
          · rw [hgood] at h
            cases h
          · omega
      rw [hstays] at hfall
      cases hfall
    · exact .inl hs

end Sys2Proof.Machine
end

section
/-! PROOFS. The law, map and latch of a control period, and what a period changes besides its corner. -/

namespace Sys2Proof.Machine

open Sys2Proof

/-! ## The law stages (R18, R27 to R33) -/

/-- v_body with the signs of the corner written out (R18). -/
theorem bodyVelocity_eq (m : Memory) (c : Corner) (b : Motion) :
    bodyVelocity m c b = max (-3000) (min 3000 (b.w
      + (if c = .fl ∨ c = .rl then 1 else -1) * (b.p * halfTrack m c).tdiv 1000
      + (if c = .rl ∨ c = .rr then 1 else -1) * (b.q * lever m c).tdiv 1000)) := by
  rw [bodyVelocity, clampInt_eq _ _ _ (by decide)]
  cases c <;> simp [signed, Corner.isLeft, Corner.isFront]

theorem windowPhase_approach {w : Window} (h0 : 0 < w.pos) (h1 : w.pos ≤ w.lead) : windowPhase w = .approach := by
  rw [windowPhase, if_neg (by omega), if_pos h0]

theorem windowPhase_contact {w : Window} (h0 : w.pos ≤ 0) (h1 : -(w.length : Int) < w.pos) :
    windowPhase w = .contact := by
  rw [windowPhase, if_neg (by omega), if_neg (by omega), if_pos h1]

theorem windowPhase_rebound {w : Window} (h0 : w.pos ≤ -(w.length : Int)) (h1 : -((w.length : Int) + w.trail) < w.pos) :
    windowPhase w = .rebound := by
  rw [windowPhase, if_neg (by omega), if_neg (by omega), if_neg (by omega), if_pos h1]

/-- APPROACH and CONTACT present the soft coefficient, REBOUND the firm one (R30). -/
theorem presentation_window (h : HeldWindow) (cLaw : Nat) :
    (-(h.win.length : Int) < h.win.pos → h.win.pos ≤ h.win.lead → presentation (some h) cLaw = min cLaw h.win.cSoft) ∧
    (-((h.win.length : Int) + h.win.trail) < h.win.pos → h.win.pos ≤ -(h.win.length : Int) →
      presentation (some h) cLaw = max cLaw h.win.cFirm) := by
  refine ⟨fun hlow hhigh => ?_, fun hlow hhigh => ?_⟩
  · rcases lt_or_ge 0 h.win.pos with hpos | hpos
    · simp only [presentation, windowPhase_approach hpos hhigh]
    · simp only [presentation, windowPhase_contact hpos hlow]
  · simp only [presentation, windowPhase_rebound hhigh hlow]

theorem lawCoefficient_eq (row : ModeRow) (gate : Nat) (stale sensor : Bool) (vBody vRel : Int) :
    lawCoefficient row gate stale sensor vBody vRel =
      if stale = true ∨ sensor = true then row.cFallback
      else if vBody * vRel ≤ 0 then row.cMin
      else min 4000 ((row.cSky * vBody.natAbs) / max vRel.natAbs gate) := by
  simp only [lawCoefficient, Bool.or_eq_true]

section
variable (c : Corner) (a : BitVec 12) {s : State}

/-- A corner's results with a VALID image, stage by stage. -/
theorem periodResults_valid (hvalid : imageIsValid s) :
    let q := periodAcquired c a s
    let l := periodResults c a s
    l.stale = !s.bodyFresh ∧ l.vBody = (if s.bodyFresh then bodyVelocity s.cal.working c s.motion else 0) ∧
    l.cLaw = lawCoefficient (rowInForce s) (vGate s.cal.working) l.stale q.sensor l.vBody q.vRel ∧
    l.cA = presentation (s.arb.get c).active l.cLaw ∧
    l.cB = (if l.stale then l.cA else max l.cA (s.motion.floors.get c)) ∧
    l.cC = modeLimited (rowInForce s) s.sup.part l.cB ∧
    l.band = selectBand (edge1 s.cal.working) (edge2 s.cal.working) (edge3 s.cal.working) q.vRel ∧
    l.cOut = outputCoefficient (periodInputs s c) c l.band l.cC (s.law.get c).cPrev ∧
    l.iTgt = targetCurrent (periodInputs s c) c l.band l.cOut ∧ l.cPrev = l.cOut := by
  have hon : (periodInputs s c).valid = true := State.imageValid_iff.2 hvalid
  dsimp only
  rw [periodResults, lawStages, if_pos hon]
  refine ⟨rfl, ?_, rfl, rfl, rfl, rfl, rfl, rfl, rfl, rfl⟩
  cases hfresh : s.bodyFresh <;> simp [periodInputs, hfresh]

theorem periodResults_blank (hvalid : ¬imageIsValid s) : periodResults c a s = blankResults := by
  have hoff : ¬(periodInputs s c).valid = true := fun h => hvalid (State.imageValid_iff.1 h)
  rw [periodResults, lawStages, if_neg hoff]

end

/-- Settles O8: each result of the period is its stage applied to the results before it. -/
theorem periodRunsTheLaw : Obligations.PeriodRunsTheLaw := by
  intro c a s hheld hpart hvalid
  refine ⟨controlPeriod c a s, controlPeriod_runs c a hheld, ?_⟩
  dsimp only
  rw [controlPeriod_law c a hpart, controlPeriod_acq c a hpart, PerCorner.get_set_self]
  obtain ⟨hstale, hbody, hlaw, hA, hB, hC, -, hout, -, hprev⟩ := periodResults_valid c a hvalid
  refine ⟨hstale, by rw [hbody, bodyVelocity_eq], by rw [hlaw, lawCoefficient_eq], fun hnone => ?_, fun w hw => ?_, hB,
    by rw [hC, modeLimited], fun hruns => ?_, fun hstandby => ?_, hprev⟩
  · rw [hA, hnone, presentation]
  · rw [hA, hw]
    exact presentation_window w _
  · rw [hout]
    rcases hruns with hp | hp <;> simp only [outputCoefficient, periodInputs, hp] <;> rfl
  · rw [hout]
    simp only [outputCoefficient, periodInputs, hstandby]

/-! ## The end of STOPPING, and what else a period changes -/

/-- A period ends STOPPING where it leaves c_out 0 at its corner and it stands at 0 at the others. -/
def endsStopping (c : Corner) (a : BitVec 12) (s : State) : Prop :=
  s.sup.part = .stopping ∧ (periodResults c a s).cOut = 0 ∧ ∀ d, d ≠ c → (s.law.get d).cOut = 0

theorem periodNoted_at_rest (c : Corner) (a : BitVec 12) (s : State) :
    (∀ d, ((periodNoted c a s).law.get d).cOut = 0) ↔
      (periodResults c a s).cOut = 0 ∧ ∀ d, d ≠ c → (s.law.get d).cOut = 0 := by
  rw [periodNoted_eq]
  simp only [PerCorner.get_set]
  refine ⟨fun h => ⟨by simpa using h c, fun d hd => by simpa [hd] using h d⟩, fun ⟨hc, hd⟩ d => ?_⟩
  split
  · exact hc
  · exact hd d ‹_›

theorem controlPeriod_ends {c : Corner} {a : BitVec 12} {s : State} (hends : endsStopping c a s) :
    controlPeriod c a s = enterStandby (periodNoted c a s) := by
  obtain ⟨hpart, hrest⟩ := hends
  rw [controlPeriod_noted c a (by simp [hpart])]
  rcases endStoppingAtRest_eq (periodNoted c a s) with ⟨-, -, heq⟩ | ⟨hnot, -⟩
  · exact heq
  · exact absurd ⟨(periodNoted_part c a s).trans hpart, (periodNoted_at_rest c a s).2 hrest⟩ hnot

theorem controlPeriod_stays {c : Corner} {a : BitVec 12} {s : State} (hpart : s.sup.part ≠ .start)
    (hstays : ¬endsStopping c a s) : controlPeriod c a s = periodNoted c a s := by
  rw [controlPeriod_noted c a hpart]
  rcases endStoppingAtRest_eq (periodNoted c a s) with ⟨hstop, hrest, -⟩ | ⟨-, heq⟩
  · exact absurd ⟨(periodNoted_part c a s).symm.trans hstop, (periodNoted_at_rest c a s).1 hrest⟩ hstays
  · exact heq

/-- The entry to STANDBY leaves every fault summary (R122). -/
theorem enterStandby_faultSummary (s : State) (c : Corner) : (enterStandby s).faultSummary c = s.faultSummary c := by
  have hdrive : (enterStandby s).drive.get c = { driveDropped (s.drive.get c) with latch := 0 } :=
    PerCorner.get_map _ _ c
  have hfault : (driveDropped (s.drive.get c)).state.isHardFault = (s.drive.get c).state.isHardFault := by
    rw [driveDropped_eq]
    cases hs : (s.drive.get c).state <;> simp [DriveState.driving, switchedOff, DriveState.isHardFault, hs]
  have hlow : (driveDropped (s.drive.get c)).regLow = (s.drive.get c).regLow := by
    rw [driveDropped_eq]
    split <;> rfl
  simp only [State.faultSummary, summaryOf, hdrive, hfault, hlow]
  rfl

theorem periodNoted_faultSummary (c : Corner) (a : BitVec 12) (s : State) :
    (periodNoted c a s).faultSummary c = (cornerPeriod c a s).faultSummary c := by
  rw [periodNoted, noteFaultRise_eq]
  rfl

/-- Settles O10: a period is its corner's results with FAULT_NEW noted, and after it the entry to STANDBY where it ends
STOPPING. -/
theorem periodChangesOnlyItsCorner : Obligations.PeriodChangesOnlyItsCorner := by
  intro c a s hheld hpart
  refine ⟨controlPeriod c a s, controlPeriod_runs c a hheld, ?_⟩
  dsimp only
  rw [controlPeriod_law c a hpart]
  refine ⟨fun hstays => ?_, fun hends => ⟨periodNoted c a s, ?_⟩⟩
  · rw [controlPeriod_stays hpart hstays, periodNoted_faultSummary]
    conv_lhs => rw [periodNoted_eq]
    rw [periodNoted_eq]
    simp only [PerCorner.get_set_self]
  · rw [controlPeriod_ends hends, enterStandby_faultSummary, periodNoted_faultSummary]
    refine ⟨enterStandby_entered _, enterStandby_linkKept _, ?_⟩
    conv_lhs => rw [periodNoted_eq]
    rw [(enterStandby_entered _).2.2.2.1, periodNoted_eq]
    simp only [PerCorner.get_set_self]

/-! ## Band, target and latch (R105 to R108, R114) -/

theorem selectBand_cases (e1 e2 e3 : Nat) (v : Int) :
    (v.natAbs < e1 → selectBand e1 e2 e3 v = 0) ∧
    (e1 ≤ v.natAbs → v.natAbs < e2 → selectBand e1 e2 e3 v = 1) ∧
    (e1 ≤ v.natAbs → e2 ≤ v.natAbs → v.natAbs < e3 → selectBand e1 e2 e3 v = 2) ∧
    (e1 ≤ v.natAbs → e2 ≤ v.natAbs → e3 ≤ v.natAbs → selectBand e1 e2 e3 v = 3) := by
  refine ⟨fun h => ?_, fun h1 h => ?_, fun h1 h2 h => ?_, fun h1 h2 h => ?_⟩
  · rw [selectBand, if_pos h]
  · rw [selectBand, if_neg (by omega), if_pos h]
  · rw [selectBand, if_neg (by omega), if_neg (by omega), if_pos h]
  · rw [selectBand, if_neg (by omega), if_neg (by omega), if_neg (by omega)]

theorem latchValue_eq (i : PeriodInputs) (c : Corner) (iTgt : Nat) :
    latchValue i c iTgt =
      if i.source = .law then iTgt else if i.source = .limp then limpCurrent i.mem c else 0 := by
  cases h : i.source <;> simp [latchValue, h]

/-- The latch after a period: where it ends STOPPING the entry to STANDBY has set it to 0. -/
theorem controlPeriod_latch (c : Corner) (a : BitVec 12) {s : State} (hpart : s.sup.part ≠ .start) :
    ((controlPeriod c a s).drive.get c).latch =
      if (controlPeriod c a s).sup.part ≠ s.sup.part then 0
      else latchValue (periodInputs s c) c (periodResults c a s).iTgt := by
  by_cases hends : endsStopping c a s
  · have hleft : (enterStandby (periodNoted c a s)).sup.part ≠ s.sup.part := by
      rw [hends.1]
      nofun
    rw [controlPeriod_ends hends, if_pos hleft]
    exact congrArg Drive.latch (PerCorner.get_map _ _ c)
  · rw [controlPeriod_stays hpart hends, periodNoted_part, if_neg (not_not.2 rfl), periodNoted_eq,
      PerCorner.get_set_self]

/-- Settles O9: band, target and latch are the stages of the period; LIMP and an image not VALID are its other cases. -/
theorem periodTargetsAndLimp : Obligations.PeriodTargetsAndLimp := by
  refine ⟨fun c a s hheld hpart hvalid => ⟨controlPeriod c a s, controlPeriod_runs c a hheld, ?_⟩,
    fun c a s hheld => ⟨fun hlimp hvalid => ⟨controlPeriod c a s, controlPeriod_runs c a hheld, ?_⟩,
      fun hstandby hvalid => ⟨controlPeriod c a s, controlPeriod_runs c a hheld, ?_⟩, fun hstart => ?_⟩⟩
  · dsimp only
    rw [controlPeriod_latch c a hpart, controlPeriod_law c a hpart, controlPeriod_acq c a hpart, PerCorner.get_set_self,
      latchValue_eq]
    obtain ⟨-, -, -, -, -, -, hband, -, htarget, -⟩ := periodResults_valid c a hvalid
    obtain ⟨h0, h1, h2, h3⟩ := selectBand_cases (edge1 s.cal.working) (edge2 s.cal.working) (edge3 s.cal.working)
      (periodAcquired c a s).vRel
    rw [← hband] at h0 h1 h2 h3
    refine ⟨h0, h1, h2, h3, fun hnot => ?_, fun hlimp => ?_, rfl⟩
    · exact htarget.trans (if_neg hnot)
    · exact htarget.trans (if_pos hlimp)
  · have hpart : s.sup.part ≠ .start := by simp [hlimp]
    obtain ⟨-, -, -, -, -, -, -, hout, -, hprev⟩ := periodResults_valid c a hvalid
    rw [controlPeriod_law c a hpart]
    refine ⟨?_, hprev⟩
    rw [hout]
    simp only [outputCoefficient, periodInputs, hlimp]
    rfl
  · rw [controlPeriod_law c a (by simp [hstandby]), periodResults_blank c a hvalid]
    rfl
  · rw [controlPeriod_runs c a hheld, controlPeriod, if_pos hstart]

end Sys2Proof.Machine
end

section
/-! PROOFS. A round trip through the two maps (R112). -/

namespace Sys2Proof.Machine

open Sys2Proof

/-- A share of a segment's `d` points there and back: never more, and less by at most 150 of them, rounded up. -/
theorem share_round_trip {r d : Nat} (hd : 0 < d) :
    r * d / 150 * 150 / d ≤ r ∧ r - r * d / 150 * 150 / d ≤ (150 + d - 1) / d := by
  have hdown : r * d / 150 * 150 ≤ r * d := Nat.div_mul_le_self _ _
  have hup : r * d < r * d / 150 * 150 + 150 := by omega
  have hback : r * d / 150 * 150 < r * d / 150 * 150 / d * d + d := by
    have := Nat.lt_div_mul_add (a := r * d / 150 * 150) hd
    omega
  refine ⟨(Nat.div_le_div_right hdown).trans (Nat.mul_div_cancel r hd).le, (Nat.le_div_iff_mul_le hd).2 ?_⟩
  rw [Nat.sub_mul]
  omega

/-- Inside a segment both maps work on the segment's points alone. -/
theorem inverseMap_forwardMap {row : Nat → Nat} (hrise : ∀ k, k < 11 → row k < row (k + 1)) {i : Nat} (hi : i < 1650) :
    inverseMap row (forwardMap row i) =
      150 * min (i / 150) 10 + (i - 150 * min (i / 150) 10) * (row (min (i / 150) 10 + 1) - row (min (i / 150) 10)) / 150
        * 150 / (row (min (i / 150) 10 + 1) - row (min (i / 150) 10)) := by
  have hk : min (i / 150) 10 ≤ 10 := Nat.min_le_right _ _
  have hr : i - 150 * min (i / 150) 10 < 150 := by omega
  have hstep := hrise _ (Nat.lt_succ_of_le hk)
  have hforward : forwardMap row i = row (min (i / 150) 10) + (i - 150 * min (i / 150) 10)
      * (row (min (i / 150) 10 + 1) - row (min (i / 150) 10)) / 150 := rfl
  generalize min (i / 150) 10 = k at *
  generalize i - 150 * k = r at *
  have hshare : r * (row (k + 1) - row k) / 150 < row (k + 1) - row k :=
    Nat.div_lt_of_lt_mul (Nat.mul_lt_mul_of_pos_right hr (by omega))
  rw [hforward, inverseMap_of_segment hrise hk (Nat.le_add_right _ _) (by omega), Nat.add_sub_cancel_left]

/-- Settles O12: within a segment by the share of its points, and at 1650 mA by the last point. -/
theorem roundTripNeverRises : Obligations.RoundTripNeverRises := by
  intro row hrise i hi
  have hgrid : i % 150 = 0 → inverseMap row (forwardMap row i) = i := fun h0 => by
    obtain ⟨k, rfl⟩ := Nat.dvd_of_mod_eq_zero h0
    rw [forwardMap_grid hrise (by omega), inverseMap_point hrise (by omega)]
  rcases Nat.lt_or_eq_of_le hi with hlt | rfl
  · have hstep := hrise (min (i / 150) 10) (by omega)
    obtain ⟨hnot, hfall⟩ := share_round_trip (r := i - 150 * min (i / 150) 10)
      (d := row (min (i / 150) 10 + 1) - row (min (i / 150) 10)) (by omega)
    have hlow : 150 * min (i / 150) 10 ≤ i := by omega
    refine ⟨?_, hgrid, ?_⟩ <;> rw [inverseMap_forwardMap hrise hlt] <;> omega
  · rw [hgrid rfl]
    exact ⟨le_rfl, fun _ => rfl, by simp⟩

end Sys2Proof.Machine
end

section
/-! PROOFS. Requests that the part state alone refuses, requests that only read, and the transitions requests make. -/

namespace Sys2Proof.Machine

open Sys2Proof

/-! ## Refusals by the part state (R142, R153, R172, R176) -/

section
variable {i : Instr} {k : RequestKind} {h : LinkHeader} {payload : List Byte} {s : State}
  (hparts : requestParts i = some (k, h, payload)) (hheld : s.held = false) (hfit : fits k h)
include hparts hheld hfit

theorem refused_in_start (hpart : s.sup.part = .start) (hnop : k ≠ .nop) (hstatus : k ≠ .status) (hident : k ≠ .ident)
    (hrestart : k ≠ .restart) : refusedWith .busy k h i s := by
  cases i <;> cases hparts
  case nop => exact absurd rfl hnop
  case status => exact absurd rfl hstatus
  case ident => exact absurd rfl hident
  case restart => exact absurd rfl hrestart
  all_goals
    exact transact_refuses rfl hheld hfit (by
      simp [hpart, performBodyState, performPreviewEvent, admissionCheck, performCancelEvent, performFlushPreview,
        performCollect, performCornerOptions, performReadCorner, performClearFaults, performGoActive, performGoStandby,
        performEnterLimp, performResume, performCalSegment, performCalRead, performCalStore])

theorem refused_in_limp (hpart : s.sup.part = .limp)
    (hk : k = .previewEvent ∨ k = .flushPreview ∨ k = .cancelEvent ∨ k = .cornerOptions ∨ k = .calSegment ∨
      k = .calStore ∨ k = .goActive) : refusedWith .limpActive k h i s := by
  cases i <;> cases hparts
  case previewEvent | flushPreview | cancelEvent | cornerOptions | calSegment | calStore | goActive =>
    exact transact_refuses rfl hheld hfit (by
      simp [hpart, performPreviewEvent, admissionCheck, performCancelEvent, performFlushPreview, performCornerOptions,
        performGoActive, performCalSegment, performCalStore])
  all_goals simp at hk

theorem refused_while_running (hpart : s.sup.part = .active ∨ s.sup.part = .stopping)
    (hk : k = .calSegment ∨ k = .calStore) : refusedWith .wrongState k h i s := by
  cases i <;> cases hparts
  case calSegment | calStore =>
    exact transact_refuses rfl hheld hfit (by
      rcases hpart with hpart | hpart <;> simp [hpart, performCalSegment, performCalStore])
  all_goals simp at hk

theorem refused_while_storing (hpart : s.sup.part = .standby) (hbusy : s.cal.store = .busy)
    (hk : k = .calSegment ∨ k = .calStore) : refusedWith .busy k h i s := by
  have hstore : (received k h s).cal.store = .busy := hbusy
  cases i <;> cases hparts
  case calSegment | calStore =>
    exact transact_refuses rfl hheld hfit (by simp [hpart, hstore, performCalSegment, performCalStore])
  all_goals simp at hk

end

/-- Settles O49: in each part state the requests it refuses answer before they look at anything else. -/
theorem refusalsByPartState : Obligations.RefusalsByPartState :=
  fun _ _ _ _ _ hparts hheld hfit => ⟨refused_in_start hparts hheld hfit, refused_in_limp hparts hheld hfit,
    refused_while_running hparts hheld hfit, refused_while_storing hparts hheld hfit⟩

/-! ## Requests that only read -/

/-- A two-byte field of the image is sent as its two bytes (R179). -/
theorem natBytes_word (m : Memory) (a : Nat) : natBytes (m.word a) = m.bytes a 2 := by
  have hhigh : (BitVec.ofNat 16 (m.word a)).extractLsb' 8 8 = m.read a := by
    apply BitVec.eq_of_toNat_eq
    have := (m.read a).isLt
    have := (m.read (a + 1)).isLt
    simp only [BitVec.extractLsb'_toNat, BitVec.toNat_ofNat, Memory.word, Nat.shiftRight_eq_div_pow]
    omega
  have hlow : (BitVec.ofNat 16 (m.word a)).extractLsb' 0 8 = m.read (a + 1) := by
    apply BitVec.eq_of_toNat_eq
    have := (m.read a).isLt
    have := (m.read (a + 1)).isLt
    simp only [BitVec.extractLsb'_toNat, BitVec.toNat_ofNat, Memory.word, Nat.shiftRight_eq_div_pow]
    omega
  rw [natBytes, half, hhigh, hlow]
  rfl

/-- Settles O45: each answers with what it reads in the state it is performed in. -/
theorem readingRequestsChangeNothing : Obligations.ReadingRequestsChangeNothing := by
  intro h index s hheld
  refine ⟨fun hfit => ?_, fun hfit => ?_, fun hfit hpart => ⟨fun hindex => ?_, fun hindex => ?_⟩⟩
  · obtain ⟨r, hrun, hframe, hreply⟩ := transact_done (i := .nop h) (perform := answerDone h []) rfl hheld hfit rfl
      (linkKept_refl _)
    exact ⟨_, hrun, hframe, hreply, blocksKept_received _ _ _ _⟩
  · obtain ⟨r, hrun, hframe, hreply⟩ := transact_done (i := .ident h) (perform := performIdent h) rfl hheld hfit rfl
      (linkKept_refl _)
    refine ⟨_, hrun, hframe, blocksKept_received _ _ _ _, ?_⟩
    rw [calIdentifier, calCrc, natBytes_word, natBytes_word] at hreply
    exact hreply
  · exact transact_refuses rfl hheld hfit (by simp [performCalRead, hpart, segmentCount, hindex])
  · have hanswer : performCalRead h index (received .calRead h s) = answerDone h
        ([index, BitVec.ofNat 8 s.cal.imageState.code]
          ++ s.cal.working.bytes (segmentBytes * index.toNat) segmentBytes) (received .calRead h s) := by
      rw [performCalRead, received_sup, if_neg hpart, if_neg (by simp only [segmentCount]; omega)]
      rfl
    obtain ⟨r, hrun, hframe, hreply⟩ := transact_done (i := .calRead h index) rfl hheld hfit hanswer (linkKept_refl _)
    exact ⟨_, hrun, hframe, blocksKept_received _ _ _ _, hreply⟩

/-! ## The preview schedule: FLUSH_PREVIEW and COLLECT -/

theorem flush_linkKept (s : State) : linkKept s (flush s) := ⟨rfl, rfl, rfl, rfl, rfl, rfl, rfl⟩

theorem setSched_linkKept (s : State) (x : Scheduler) : linkKept s (s.setSched x) := ⟨rfl, rfl, rfl, rfl, rfl, rfl, rfl⟩

/-- Settles O25. -/
theorem flushPreviewFlushes : Obligations.FlushPreviewFlushes := by
  intro h s hheld hfit
  refine ⟨fun hpart => ?_, fun hpart => transact_refuses rfl hheld hfit (by
    rcases hpart with hpart | hpart <;> simp [performFlushPreview, hpart])⟩
  have hanswer : performFlushPreview h (received .flushPreview h s) = answerDone h
      [BitVec.ofNat 8 s.sched.events.length, BitVec.ofNat 8 (s.windows.filter isOrphan).length]
      (flush (received .flushPreview h s)) := by
    simp only [performFlushPreview, received_sup, hpart]
    rfl
  obtain ⟨r, hrun, hframe, hreply⟩ := transact_done (i := .flushPreview h) rfl hheld hfit hanswer (flush_linkKept _)
  have horphans : (s.windows.filter fun w => decide (w.parent = .orphan)) = s.windows.filter isOrphan :=
    List.filter_congr fun w _ => by cases hw : w.parent <;> simp [isOrphan, hw]
  refine ⟨_, hrun, hframe, flush_flushed (received .flushPreview h s), ?_, rfl, rfl, rfl, rfl, rfl, rfl⟩
  rw [horphans]
  exact hreply

theorem completion_bytes_length (r : Completion) : r.bytes.length = 8 := rfl

/-- Up to four records and zeros after them fill the 32 bytes of the slots (R99). -/
theorem slotBytes_eq {rs : List Completion} (h : rs.length ≤ 4) :
    slotBytes rs = rs.flatMap Completion.bytes ++ List.replicate (32 - 8 * rs.length) 0 := by
  have hlen : (rs.flatMap Completion.bytes).length = 8 * rs.length := by
    simp [List.length_flatMap, completion_bytes_length, Nat.mul_comm]
  rw [slotBytes, List.take_append, List.take_of_length_le (by omega), List.take_replicate, hlen]
  congr 2
  omega

/-- Settles O26. -/
theorem collectRemovesTheOldest : Obligations.CollectRemovesTheOldest := by
  intro h count s hheld hfit hpart
  have htaken : collectCount count = max 1 (min 4 count.toNat) := clampNat_eq _ _ _ (by decide)
  dsimp only
  rw [← htaken]
  have hanswer := transact_done (i := .collect h count) (perform := performCollect h count)
    (answer := [BitVec.ofNat 8 (s.sched.completions.take (collectCount count)).length,
      BitVec.ofNat 8 (s.sched.completions.drop (collectCount count)).length,
      bitsByte [collectCount count != count.toNat]] ++ slotBytes (s.sched.completions.take (collectCount count)))
    (u := (received .collect h s).setSched
      { s.sched with completions := s.sched.completions.drop (collectCount count) })
    rfl hheld hfit (if_neg hpart) (setSched_linkKept _ _)
  obtain ⟨r, hrun, hframe, hreply⟩ := hanswer
  have hfour : (s.sched.completions.take (collectCount count)).length ≤ 4 := by
    rw [List.length_take, htaken]
    omega
  have hbit : bitsByte [collectCount count != count.toNat] = if collectCount count = count.toNat then 0 else 1 := by
    by_cases heq : collectCount count = count.toNat <;> simp [heq, bitsByte, bit]
  have hleft : (s.sched.completions.drop (collectCount count)).length =
      s.sched.completions.length - (s.sched.completions.take (collectCount count)).length := by
    rw [List.length_drop, List.length_take]
    omega
  rw [hbit, hleft, slotBytes_eq hfour] at hreply
  exact ⟨_, hrun, hframe, rfl, ⟨_, rfl, hreply⟩, rfl, rfl, rfl, rfl, rfl, rfl, rfl⟩

/-! ## The state requests -/

theorem setSup_linkKept (s : State) (x : Supervisor) : linkKept s (s.setSup x) := ⟨rfl, rfl, rfl, rfl, rfl, rfl, rfl⟩

/-- A request answered DONE in the state it was performed in. -/
theorem transact_acknowledges {i : Instr} {k : RequestKind} {h : LinkHeader} {payload : List Byte} {s : State}
    {perform : State → Performed} (hparts : requestParts i = some (k, h, payload)) (hheld : s.held = false)
    (hfit : fits k h) (hp : perform (received k h s) = answerDone h [] (received k h s)) :
    ∃ t, transact i h perform s = .next t ∧ frameTaken k h s t ∧ answeredDone h [] t ∧ blocksKept s t := by
  obtain ⟨r, hrun, hframe, hreply⟩ := transact_done hparts hheld hfit hp (linkKept_refl _)
  exact ⟨_, hrun, hframe, hreply, blocksKept_received k h s r⟩

/-- Settles O35: GO_STANDBY by part state. -/
theorem goStandbyByPartState : Obligations.GoStandbyByPartState := by
  intro h s hheld hfit
  have hparts : requestParts (.goStandby h) = some (.goStandby, h, []) := rfl
  refine ⟨fun hpart => ?start, fun hpart => ?stays, fun hpart => ?active, fun hpart => ?limp⟩
  case start => exact transact_refuses hparts hheld hfit (by simp [performGoStandby, hpart])
  case stays =>
    exact transact_acknowledges hparts hheld hfit (by rcases hpart with hpart | hpart <;> simp [performGoStandby, hpart])
  case active =>
    obtain ⟨r, hrun, hframe, hreply⟩ := transact_done (perform := performGoStandby h)
      (u := enterStopping (received .goStandby h s)) (answer := []) hparts hheld hfit (by simp [performGoStandby, hpart]) ⟨rfl, rfl, rfl, rfl, rfl, rfl, rfl⟩
    exact ⟨_, hrun, hframe, hreply, rfl, flush_flushed (received .goStandby h s), rfl, rfl, rfl, rfl, rfl⟩
  case limp =>
    obtain ⟨r, hrun, hframe, hreply⟩ := transact_done (perform := performGoStandby h)
      (u := enterStandby (received .goStandby h s)) (answer := []) hparts hheld hfit (by simp [performGoStandby, hpart]) (enterStandby_linkKept _)
    exact ⟨_, hrun, hframe, hreply, enterStandby_entered (received .goStandby h s)⟩

end Sys2Proof.Machine
end

section
/-! PROOFS. GO_ACTIVE, RESUME and STATUS; the edges of DRVEN and the link silence. -/

namespace Sys2Proof.Machine

open Sys2Proof

/-! ## What a request finds in the state it is performed in -/

section
variable (k : RequestKind) (h : LinkHeader) (s : State)

@[simp] theorem received_acq : (received k h s).acq = s.acq := rfl
@[simp] theorem received_law : (received k h s).law = s.law := rfl
@[simp] theorem received_arb : (received k h s).arb = s.arb := rfl
@[simp] theorem received_drive : (received k h s).drive = s.drive := rfl
@[simp] theorem received_motion : (received k h s).motion = s.motion := rfl
@[simp] theorem received_sched : (received k h s).sched = s.sched := rfl
@[simp] theorem received_cal : (received k h s).cal = s.cal := rfl
@[simp] theorem received_drven : (received k h s).drven = s.drven := rfl
@[simp] theorem received_imageValid : (received k h s).imageValid = s.imageValid := rfl
@[simp] theorem received_faultSummary (c : Corner) : (received k h s).faultSummary c = s.faultSummary c := rfl
@[simp] theorem received_anyHardFault : (received k h s).anyHardFault = s.anyHardFault := rfl
@[simp] theorem received_windows : (received k h s).windows = s.windows := rfl

end

/-! ## GO_ACTIVE (R144) -/

theorem enterActive_linkKept (s : State) : linkKept s (enterActive s) := ⟨rfl, rfl, rfl, rfl, rfl, rfl, rfl⟩

theorem imageValid_false {s : State} (h : ¬imageIsValid s) : s.imageValid = false :=
  Bool.eq_false_iff.2 fun hv => h (State.imageValid_iff.1 hv)

/-- In STANDBY the checks are image, store, DRVEN, in that order. -/
theorem performGoActive_standby (h : LinkHeader) {s : State} (hpart : s.sup.part = .standby) :
    performGoActive h s =
      if s.imageValid = false then refuse h .calInvalid s
      else if s.cal.store = .busy then refuse h .busy s
      else if s.drven = false then refuse h .notReady s
      else answerDone h [] (enterActive s) := by
  simp only [performGoActive, hpart]

/-- Settles O34: GO_ACTIVE by part state. -/
theorem goActiveByPartState : Obligations.GoActiveByPartState := by
  intro h s hheld hfit
  have hparts : requestParts (.goActive h) = some (.goActive, h, []) := rfl
  refine ⟨fun hpart => ?limp, fun hpart => ?standby, fun hpart => ?active, fun hpart => ?stopping⟩
  case limp => exact transact_refuses hparts hheld hfit (by simp [performGoActive, hpart])
  case active => exact transact_acknowledges hparts hheld hfit (by simp [performGoActive, hpart])
  case stopping =>
    obtain ⟨r, hrun, hframe, hreply⟩ := transact_done (perform := performGoActive h)
      (u := returnActive (received .goActive h s)) (answer := []) hparts hheld hfit (by simp [performGoActive, hpart])
      (setSup_linkKept _ _)
    exact ⟨_, hrun, hframe, hreply, rfl, rfl, rfl, rfl, rfl, rfl, rfl, rfl⟩
  case standby =>
    have hstandby := performGoActive_standby h (s := received .goActive h s) hpart
    simp only [received_imageValid, received_cal, received_drven] at hstandby
    refine ⟨fun hvalid => transact_refuses hparts hheld hfit ?_, fun hvalid hbusy => transact_refuses hparts hheld hfit ?_,
      fun hvalid hidle hdrven => transact_refuses hparts hheld hfit ?_, fun hvalid hidle hdrven => ?_⟩
    · simp [hstandby, imageValid_false hvalid]
    · simp [hstandby, State.imageValid_iff.2 hvalid, hbusy]
    · simp [hstandby, State.imageValid_iff.2 hvalid, hidle, hdrven]
    · obtain ⟨r, hrun, hframe, hreply⟩ := transact_done (perform := performGoActive h)
        (u := enterActive (received .goActive h s)) (answer := []) hparts hheld hfit
        (by simp [hstandby, State.imageValid_iff.2 hvalid, hidle, hdrven]) (enterActive_linkKept _)
      refine ⟨_, hrun, hframe, hreply, rfl, fun c => PerCorner.get_map _ _ c, fun c => ?_, rfl, rfl, rfl, rfl, rfl⟩
      rw [← driveSelected_eq]
      exact PerCorner.get_map _ _ c

/-! ## RESUME (R154) -/

theorem resumeActive_linkKept (s : State) : linkKept s (resumeActive s) := ⟨rfl, rfl, rfl, rfl, rfl, rfl, rfl⟩

theorem isHardFault_iff (d : DriveState) : d.isHardFault = true ↔ d = .faultOpen ∨ d = .faultShort := by
  cases d <;> simp [DriveState.isHardFault]

theorem anyHardFault_iff (s : State) :
    s.anyHardFault = true ↔ ∃ c, (s.drive.get c).state = .faultOpen ∨ (s.drive.get c).state = .faultShort := by
  simp only [State.anyHardFault, List.any_eq_true, isHardFault_iff]
  exact ⟨fun ⟨c, _, hc⟩ => ⟨c, hc⟩, fun ⟨c, hc⟩ => ⟨c, Corner.mem_all c, hc⟩⟩

/-- Settles O37: RESUME by part state. -/
theorem resumeReturnsToTheLaw : Obligations.ResumeReturnsToTheLaw := by
  intro h s hheld hfit
  have hparts : requestParts (.resume h) = some (.resume, h, []) := rfl
  dsimp only
  rw [← anyHardFault_iff]
  refine ⟨fun hpart => ?start, fun hpart => ?running, fun hpart hnot => ?notReady, fun hpart hdrven hfault => ?resumes⟩
  case start => exact transact_refuses hparts hheld hfit (by simp [performResume, hpart])
  case running =>
    exact transact_refuses hparts hheld hfit (by rcases hpart with hpart | hpart | hpart <;> simp [performResume, hpart])
  case notReady => exact transact_refuses hparts hheld hfit (by simp [performResume, hpart, hnot])
  case resumes =>
    obtain ⟨r, hrun, hframe, hreply⟩ := transact_done (perform := performResume h)
      (u := resumeActive (received .resume h s)) (answer := []) hparts hheld hfit
      (by simp [performResume, hpart, hdrven, hfault]) (resumeActive_linkKept _)
    exact ⟨_, hrun, hframe, hreply, rfl, fun c => PerCorner.get_build _ c, rfl, rfl, rfl, rfl, rfl, rfl⟩

/-! ## The edges of DRVEN (R121 to R123, R150) -/

/-- What the supervisor does at a fall, by part state. -/
theorem supervisorFall_cases (s : State) :
    (s.sup.part = .start ∨ s.sup.part = .standby → supervisorFall s = s) ∧
    (s.sup.part = .active → supervisorFall s = enterLimp .enaLow s) ∧
    (s.sup.part = .stopping → supervisorFall s = enterStandby s) ∧
    (s.sup.part = .limp → supervisorFall s = reasonAdded .enaLow s) := by
  refine ⟨fun h => ?_, fun h => ?_, fun h => ?_, fun h => ?_⟩
  · rcases h with h | h <;> simp only [supervisorFall, h]
  · simp only [supervisorFall, h]
  · simp only [supervisorFall, h]
  · simp only [supervisorFall, h, addLimpReason_eq]

theorem supervisorFall_drven (s : State) : (supervisorFall s).drven = s.drven := by
  unfold supervisorFall
  split <;> rfl

theorem outputDuty_low {s : State} (h : s.drven = false) (c : Corner) : s.outputDuty c = 0 := by
  simp [State.outputDuty, h]

theorem selected_iff (x : Source) : x.selected = true ↔ x ≠ .none := by cases x <;> simp [Source.selected]

theorem stageRise_eq (s : State) (c : Corner) : stageRise s c =
    if (s.drive.get c).state = .off ∧ s.sup.source.get c ≠ .none then switchedOn (s.drive.get c) else s.drive.get c := by
  by_cases h : s.sup.source.get c = .none
  · simp [stageRise, h, Source.selected]
  · simp [stageRise, (selected_iff _).2 h, driveSelected_eq, h]

/-- Settles O38: a fall drops the stages and hands the supervisor its event; a rise selects; else there is no edge. -/
theorem drvenEdges : Obligations.DrvenEdges := by
  intro s hheld
  refine ⟨fun hdrven => ⟨dropDrives s, supervisorFall (dropDrives s), rfl, fun c => ?_, ?_, fun c => ?_, ?_⟩,
    fun hdrven => ⟨{ s with drven := true, drive := PerCorner.build (stageRise s) }, ?_, rfl, fun c => ?_⟩,
    fun hdrven => ?_, fun hdrven => ?_⟩
  · rw [← driveDropped_eq]
    exact PerCorner.get_map _ _ c
  · simp [exec, execDrvenFall, takeDrvenFall, hheld, hdrven, dropDrives]
  · exact outputDuty_low (supervisorFall_drven _) c
  · obtain ⟨hrest, hactive, hstopping, hlimp⟩ := supervisorFall_cases (dropDrives s)
    refine ⟨hrest, fun hpart => ?_, fun hpart => ?_, hlimp⟩
    · rw [hactive hpart]
      exact ⟨enterLimp_entered _ _, enterLimp_linkKept _ _⟩
    · rw [hstopping hpart]
      exact ⟨enterStandby_entered _, enterStandby_linkKept _⟩
  · simp [exec, execDrvenRise, takeDrvenRise, hheld, hdrven]
  · rw [PerCorner.get_build, stageRise_eq]
  · simp [exec, execDrvenFall, takeDrvenFall, hheld, hdrven]
  · simp [exec, execDrvenRise, takeDrvenRise, hheld, hdrven]

/-! ## Link silence (R151, R168) -/

theorem silenceExpires_iff (s : State) :
    silenceExpires s = true ↔ imageIsValid s ∧ s.link.silence = limpTimeout s.cal.working := by
  rw [silenceExpires, Bool.and_eq_true, State.imageValid_iff, beq_iff_eq]

/-- The part after a tick has counted (R168). -/
def silenceCounted (s : State) : State :=
  { s with link := { s.link with silence := min silenceLimit (s.link.silence + 1) } }

theorem silenceTick_eq (s : State) : silenceTick s =
    if silenceExpires s = true then takeLimpCause .linkLost (silenceCounted s) else silenceCounted s := rfl

/-- Settles O39: the row is the tick where the silence expires, and the tick hands LINK_LOST to the supervisor there. -/
theorem silenceCountAndExpiry : Obligations.SilenceCountAndExpiry := by
  intro s hheld
  dsimp only
  rw [← silenceExpires_iff]
  refine ⟨fun hnot => ⟨?_, whenOccurs_not (Bool.eq_false_iff.2 hnot)⟩, fun hexpires => ?_⟩
  · refine (whenRunning_running hheld).trans ?_
    rw [silenceTick_eq, if_neg hnot]
    rfl
  · refine ⟨silenceTick s, whenRunning_running hheld, whenOccurs_at hheld hexpires, ?_⟩
    rw [silenceTick_eq, if_pos hexpires]
    refine ⟨fun hpart => ?_, fun hpart => ?_, fun hactive hlimp => ?_⟩
    · rw [takeLimpCause_active (s := silenceCounted s) hpart]
      exact ⟨enterLimp_entered _ (silenceCounted s), enterLimp_linkKept _ (silenceCounted s)⟩
    · exact takeLimpCause_limp hpart
    · exact takeLimpCause_else hactive hlimp

/-! ## STATUS (R156, R167) -/

theorem conditionCode_received (k : RequestKind) (h : LinkHeader) (s : State) :
    (received k h s).conditionCode = ({ s with modes := handMode h.mode s.modes } : State).conditionCode :=
  State.conditionCode_congr rfl rfl rfl rfl rfl

theorem completionsWaiting_iff (s : State) : s.completionsWaiting = decide (s.sched.completions ≠ []) := by
  cases h : s.sched.completions <;> simp [State.completionsWaiting, h]

section
variable (a b c d e : Bool)

/-- Four indications as one byte (R179). -/
theorem bitsByte_four : bitsByte [a, b, c, d] = BitVec.ofNat 8 (bit a + 2 * bit b + 4 * bit c + 8 * bit d) := by
  simp only [bitsByte, List.foldr]
  congr 1
  omega

theorem bitsByte_five :
    bitsByte [a, b, c, d, e] = BitVec.ofNat 8 (bit a + 2 * bit b + 4 * bit c + 8 * bit d + 16 * bit e) := by
  simp only [bitsByte, List.foldr]
  congr 1
  omega

/-- Four indications in the low bits and one in the highest. -/
theorem bitsByte_eight : bitsByte [a, b, c, d, false, false, false, e] =
    BitVec.ofNat 8 (bit a + 2 * bit b + 4 * bit c + 8 * bit d + 128 * bit e) := by
  have hclear : bit false = 0 := rfl
  simp only [bitsByte, List.foldr, hclear]
  congr 1
  omega

end

/-- The bytes of indications of STATUS, bit by bit (section 11.4). -/
theorem statusPayload_eq (s : State) : statusPayload s =
    [BitVec.ofNat 8 s.sup.part.code, s.sup.restartCause.code, BitVec.ofNat 8 (limpFirstCode s.sup.limpFirst),
     BitVec.ofNat 8 (bit s.sup.limpSet.requested + 2 * bit s.sup.limpSet.enaLow
       + 4 * bit s.sup.limpSet.linkLost + 8 * bit s.sup.limpSet.cornerFault),
     BitVec.ofNat 8 (bit s.sup.linkErr + 2 * bit s.sup.restarted + 4 * bit s.sup.limpEntered
       + 8 * bit s.sup.faultNew + 16 * bit (s.sched.completions ≠ [])),
     BitVec.ofNat 8 (bit (s.faultSummary .fl) + 2 * bit (s.faultSummary .fr) + 4 * bit (s.faultSummary .rl)
       + 8 * bit (s.faultSummary .rr) + 128 * bit s.drven),
     BitVec.ofNat 8 s.cal.imageState.code, BitVec.ofNat 8 s.cal.store.code, BitVec.ofNat 8 s.cal.lastResult.code,
     BitVec.ofNat 8 (128 * bit s.link.errorLatch + lastCauseCode s.link.lastCause)] := by
  rw [statusPayload, LimpReasons.byte, bitsByte_four, State.noticesByte, bitsByte_five, completionsWaiting_iff,
    bitsByte_eight]

/-- Settles O40: the reply is formed in the state received, before the delivery clears notices and latch. -/
theorem statusReportsAndClears : Obligations.StatusReportsAndClears := by
  intro h s hheld hfit
  refine ⟨_, transact_performs (i := .status h) (performStatus h) rfl hheld hfit, rfl, rfl, ?_, rfl⟩
  have hreply : (performStatus h (received .status h s)).reply =
      { kind := .done, condition := ({ s with modes := handMode h.mode s.modes } : State).conditionCode, seq := h.seq,
        payload := statusPayload s } := by
    rw [← conditionCode_received .status]
    rfl
  rw [State.setReply_link, hreply, statusPayload_eq]
  rfl

end Sys2Proof.Machine
end

section
/-! PROOFS. BODY_STATE and PREVIEW_EVENT: what is taken of the fields, the checks, what is made and answered. -/

namespace Sys2Proof.Machine

open Sys2Proof

/-! ## BODY_STATE (R10 to R12, R15) -/

theorem bne_eq_decide_ne {α : Type} [DecidableEq α] (a b : α) : (a != b) = decide (a ≠ b) := by
  by_cases h : a = b <;> simp [h]

theorem directionClamped_eq (code : Byte) : directionClamped code = decide (code ≠ 0x00 ∧ code ≠ 0x01) := by
  simp [directionClamped, bne_eq_decide_ne]

/-- Nine indications as one number, bit 0 first (R179). -/
theorem foldr_nine (a b c d e f g h i : Bool) :
    [a, b, c, d, e, f, g, h, i].foldr (fun x n => bit x + 2 * n) 0 =
      bit a + 2 * bit b + 4 * bit c + 8 * bit d + 16 * bit e + 32 * bit f + 64 * bit g + 128 * bit h + 256 * bit i := by
  simp only [List.foldr]
  omega

/-- The nine indications of the clamped-field list as one number, bit 0 first (R12). -/
theorem clampedBytes_eq (b : BodyFields) : clampedBytes b =
    natBytes (bit ((acceptedMotion b).w ≠ b.w.toInt) + 2 * bit ((acceptedMotion b).p ≠ b.p.toInt)
      + 4 * bit ((acceptedMotion b).q ≠ b.q.toInt) + 8 * bit ((acceptedMotion b).speed ≠ b.speed.toNat)
      + 16 * bit (b.direction ≠ 0x00 ∧ b.direction ≠ 0x01)
      + 32 * bit ((acceptedMotion b).floors.fl ≠ b.floors.fl.toNat)
      + 64 * bit ((acceptedMotion b).floors.fr ≠ b.floors.fr.toNat)
      + 128 * bit ((acceptedMotion b).floors.rl ≠ b.floors.rl.toNat)
      + 256 * bit ((acceptedMotion b).floors.rr ≠ b.floors.rr.toNat)) := by
  rw [clampedBytes, clampedFields, foldr_nine, directionClamped_eq]
  simp only [bne_eq_decide_ne]

theorem acceptBody_flushes {b : BodyFields} {s : State} (h : directionOfCode b.direction = .reverse ∧ s.sup.part = .active) :
    acceptBody b s = flush (s.setMotion (acceptedMotion b)) := if_pos h

theorem acceptBody_stores {b : BodyFields} {s : State}
    (h : ¬(directionOfCode b.direction = .reverse ∧ s.sup.part = .active)) :
    acceptBody b s = s.setMotion (acceptedMotion b) := if_neg h

/-- An accepted body state changes motion input, schedule and arbitration alone; the travel carry stays. -/
theorem acceptBody_frame (b : BodyFields) (s : State) :
    (acceptBody b s).motion = acceptedMotion b ∧ (acceptBody b s).sched.carry = s.sched.carry ∧
      acceptBody b s = { s with
        motion := (acceptBody b s).motion, sched := (acceptBody b s).sched, arb := (acceptBody b s).arb } := by
  by_cases h : directionOfCode b.direction = .reverse ∧ s.sup.part = .active
  · rw [acceptBody_flushes h]
    exact ⟨rfl, rfl, rfl⟩
  · rw [acceptBody_stores h]
    exact ⟨rfl, rfl, rfl⟩

theorem acceptBody_linkKept (b : BodyFields) (s : State) : linkKept s (acceptBody b s) := by
  obtain ⟨-, -, heq⟩ := acceptBody_frame b s
  rw [heq]
  exact ⟨rfl, rfl, rfl, rfl, rfl, rfl, rfl⟩

/-- Settles O13. -/
theorem bodyStateIsClampedAndStored : Obligations.BodyStateIsClampedAndStored := by
  intro h b s hheld hfit hpart
  obtain ⟨hmotion, hcarry, hframe⟩ := acceptBody_frame b (received .bodyState h s)
  have hanswer : performBodyState h b (received .bodyState h s) = answerDone h
      (clampedBytes b ++ natBytes s.sched.carry) (acceptBody b (received .bodyState h s)) := by
    rw [performBodyState, received_sup, if_neg hpart, hcarry]
    rfl
  obtain ⟨r, hrun, htaken, hreply⟩ := transact_done (i := .bodyState h b) rfl hheld hfit hanswer (acceptBody_linkKept _ _)
  refine ⟨_, hrun, htaken, ?_⟩
  have hm : ((acceptBody b (received .bodyState h s)).setReply r).motion = acceptedMotion b := hmotion
  dsimp only
  rw [hm]
  refine ⟨clampInt_eq _ _ _ (by decide), clampInt_eq _ _ _ (by decide), clampInt_eq _ _ _ (by decide), rfl, rfl,
    fun c => PerCorner.get_map _ _ c, rfl, fun hflush => ?_, fun hnot => ?_, ?_⟩
  · rw [acceptBody_flushes (s := received .bodyState h s) hflush]
    exact flush_flushed _
  · rw [acceptBody_stores (s := received .bodyState h s) hnot]
    exact ⟨rfl, rfl⟩
  · rw [clampedBytes_eq] at hreply
    refine ⟨?_, ?_, ?_, ?_, ?_, hreply⟩ <;> rw [hframe] <;> rfl

/-! ## What PREVIEW_EVENT takes (R48) -/

/-- What the clamps take of an event's fields, with its track and report point. -/
def takenEvent (e : EventFields) (track : Track) (report : ReportPoint) : TakenEvent :=
  { tag := e.tag.toNat, track := track, severity := e.severity.toNat, report := report, distance := e.distance.toInt,
    length := takenLength e, lead := takenLead e, trail := takenTrail e, cSoft := min 4000 e.cSoft.toNat,
    cFirm := min 4000 e.cFirm.toNat,
    clamped := [decide (takenLength e ≠ 10 * e.length.toNat), decide (takenLead e ≠ 10 * e.lead.toNat),
      decide (takenTrail e ≠ 10 * e.trail.toNat), decide (4000 < e.cSoft.toNat), decide (4000 < e.cFirm.toNat)] }

theorem trackOfCode_iff (b : Byte) : (b = 1 ∨ b = 2 ∨ b = 3) ↔ (trackOfCode b).isSome = true := by
  revert b
  decide +kernel

theorem reportOfCode_iff (b : Byte) : (b = 1 ∨ b = 2) ↔ (reportOfCode b).isSome = true := by
  revert b
  decide +kernel

theorem takeEvent_taken {e : EventFields} {track : Track} {report : ReportPoint} (htrack : trackOfCode e.track = some track)
    (hreport : reportOfCode e.report = some report) (hvalues : valuesTaken e) :
    takeEvent e = some (takenEvent e track report) := by
  obtain ⟨-, hsev, -, hdistance⟩ := hvalues
  have hlen : clampNat 1 500 e.length.toNat = min 500 (max 1 e.length.toNat) := by
    rw [clampNat_eq _ _ _ (by decide)]
    omega
  have hclamp : ∀ n v : Nat, (n != v) = decide (10 * n ≠ 10 * v) := fun n v => by
    rw [bne_eq_decide_ne]
    exact decide_eq_decide.2 (by omega)
  have hover : ∀ v : Nat, (min 4000 v != v) = decide (4000 < v) := fun v => by
    rw [bne_eq_decide_ne]
    exact decide_eq_decide.2 (by omega)
  simp only [takeEvent, htrack, hreport, hlen, hover]
  simp only [hclamp]
  rw [if_pos ⟨hsev.1, hsev.2, hdistance.1, hdistance.2⟩]
  rfl

theorem takeEvent_none {e : EventFields} (hvalues : ¬valuesTaken e) : takeEvent e = none := by
  cases htake : takeEvent e
  case none => rfl
  case some t =>
    refine absurd ?_ hvalues
    simp only [takeEvent] at htake
    repeat' split at htake
    case h_1.isTrue track report htrack hreport hok =>
      exact ⟨(trackOfCode_iff _).2 (by rw [htrack]; rfl), ⟨hok.1, hok.2.1⟩, (reportOfCode_iff _).2 (by rw [hreport]; rfl), hok.2.2⟩
    all_goals cases htake

/-! ## The windows of an admission (R49) -/

theorem wheelsOf_track {b : Byte} {track : Track} (h : trackOfCode b = some track) : wheelsOf b = trackCorners track := by
  revert b track
  decide +kernel

section
variable (s : State) (e : EventFields) (track : Track) (report : ReportPoint)

theorem newWindow_taken (c : Corner) : newWindow s (takenEvent e track report) c =
    { corner := c, parent := .event e.tag.toNat, severity := e.severity.toNat, lead := takenLead e,
      length := takenLength e, trail := takenTrail e, cSoft := min 4000 e.cSoft.toNat,
      cFirm := min 4000 e.cFirm.toNat, pos := admissionPosition s e c, admissionMs := s.sched.msCount,
      admissionNo := s.sched.admissionNo } := by
  simp only [newWindow, takenEvent, admissionPosition, Int.mul_comm]

theorem newWindow_passed (c : Corner) :
    windowPassed (newWindow s (takenEvent e track report) c) = passedAtAdmission s e c := by
  rw [newWindow_taken, passedAtAdmission]
  exact Bool.eq_iff_iff.2 ((windowPassed_iff _).trans decide_eq_true_iff.symm)

/-- The windows made are those of the wheels not passed. -/
theorem createdWindows_taken : createdWindows s (takenEvent e track report) =
    ((trackCorners track).filter fun c => !passedAtAdmission s e c).map (newWindow s (takenEvent e track report)) := by
  rw [createdWindows, List.filter_map]
  refine congrArg _ (List.filter_congr fun c _ => ?_)
  rw [Function.comp, newWindow_passed]

theorem frontSkipped_taken : frontSkipped s (takenEvent e track report) =
    ((trackCorners track).filter fun c => c.isFront && passedAtAdmission s e c).length := by
  rw [frontSkipped, List.filter_map, List.length_map]
  refine congrArg _ (List.filter_congr fun c _ => ?_)
  rw [Function.comp, newWindow_passed]
  rfl

theorem rearSkipped_taken : rearSkipped s (takenEvent e track report) =
    ((trackCorners track).filter fun c => !c.isFront && passedAtAdmission s e c).length := by
  rw [rearSkipped, List.filter_map, List.length_map]
  refine congrArg _ (List.filter_congr fun c _ => ?_)
  rw [Function.comp, newWindow_passed]
  rfl

end

/-- A rear wheel is passed only where every wheel is: it stands a wheelbase further from it (R49). -/
theorem passed_of_rear_passed {s : State} {e : EventFields} {c : Corner} (hrear : c.isFront = false)
    (h : passedAtAdmission s e c = true) (d : Corner) : passedAtAdmission s e d = true := by
  have hahead : admissionPosition s e d ≤ admissionPosition s e c := by
    rw [admissionPosition, admissionPosition, hrear]
    cases d.isFront <;> simp
  rw [passedAtAdmission, decide_eq_true_iff] at h ⊢
  exact hahead.trans h

/-! ## The checks (R47) -/

theorem tagHeld_iff (s : State) (tag : Nat) : s.sched.tagHeld tag = true ↔ tagTaken s tag := by
  simp [Scheduler.tagHeld, Scheduler.tagInTable, Scheduler.tagInList, tagTaken]

theorem createdWindows_nil {s : State} {e : EventFields} {track : Track} (htrack : trackOfCode e.track = some track)
    (report : ReportPoint) : createdWindows s (takenEvent e track report) = [] ↔
      ∀ c ∈ wheelsOf e.track, passedAtAdmission s e c = true := by
  rw [createdWindows_taken, wheelsOf_track htrack, List.map_eq_nil_iff, List.filter_eq_nil_iff]
  simp only [Bool.not_eq_true', Bool.not_eq_false]

/-- In ACTIVE with a free tag, the checks that read the fields (R47, checks 6 to 8). -/
theorem admissionCheck_fields {s : State} {e : EventFields} (hpart : s.sup.part = .active) (htag : e.tag.toNat < 24)
    (hfree : ¬tagTaken s e.tag.toNat) : admissionCheck s e =
      match takeEvent e with
      | none => .error .badValue
      | some t =>
        if s.motion.direction ≠ .forward then .error .wrongDirection
        else if createdWindows s t = [] then .error .tooLate
        else .ok t := by
  have hheld : ¬s.sched.tagHeld e.tag.toNat = true := fun h => hfree ((tagHeld_iff s _).1 h)
  rw [admissionCheck, if_neg (by simp [hpart]), if_neg (by simp [hpart]), if_neg (by simp [hpart]),
    if_neg (Nat.not_le.2 htag), if_neg hheld] <;> rfl

theorem valuesTaken_codes {e : EventFields} (h : valuesTaken e) :
    ∃ track report, trackOfCode e.track = some track ∧ reportOfCode e.report = some report := by
  obtain ⟨htrack, -, hreport, -⟩ := h
  obtain ⟨track, htrack⟩ := Option.isSome_iff_exists.1 ((trackOfCode_iff _).1 htrack)
  obtain ⟨report, hreport⟩ := Option.isSome_iff_exists.1 ((reportOfCode_iff _).1 hreport)
  exact ⟨track, report, htrack, hreport⟩

/-- Settles O16: the first check that fails is the refusal. -/
theorem admissionChecksInOrder : Obligations.AdmissionChecksInOrder := by
  intro h e s hheld hfit
  have refused : ∀ code, admissionCheck (received .previewEvent h s) e = .error code →
      refusedWith code .previewEvent h (.previewEvent h e) s := fun code hcode =>
    transact_refuses rfl hheld hfit (by simp only [performPreviewEvent, hcode])
  refine ⟨fun hpart => refused _ ?_, fun hpart => refused _ ?_, fun hpart => refused _ ?_, fun hpart =>
    ⟨fun htag => refused _ ?_, fun htag htaken => refused _ ?_, fun htag hfree => ?_⟩⟩
  · simp [admissionCheck, hpart]
  · simp [admissionCheck, hpart]
  · rcases hpart with hpart | hpart <;> simp [admissionCheck, hpart]
  · simp [admissionCheck, hpart, htag]
  · simp [admissionCheck, hpart, Nat.not_le.2 htag, (tagHeld_iff s _).2 htaken]
  · have hfields := admissionCheck_fields (s := received .previewEvent h s) hpart htag hfree
    refine ⟨fun hvalues => refused _ ?_, fun hvalues hdirection => refused _ ?_, fun hvalues hdirection hpassed =>
      refused _ ?_⟩
    · rw [hfields, takeEvent_none hvalues]
    all_goals
      obtain ⟨track, report, htrack, hreport⟩ := valuesTaken_codes hvalues
      simp only [hfields, takeEvent_taken htrack hreport hvalues, received_motion, hdirection]
    · rfl
    · rw [if_neg (not_not.2 rfl)]
      exact if_pos ((createdWindows_nil (s := received .previewEvent h s) htrack report).2 hpassed)

/-! ## What an admission makes and answers (R48 to R50) -/

section
variable (s : State) {e : EventFields} {track : Track} (htrack : trackOfCode e.track = some track) (asked : ReportPoint)
include htrack

/-- The wheels at which a window is made. -/
theorem createdWindows_wheels : createdWindows s (takenEvent e track asked) =
    ((wheelsOf e.track).filter fun c => !passedAtAdmission s e c).map fun c =>
      { corner := c, parent := .event e.tag.toNat, severity := e.severity.toNat, lead := takenLead e,
        length := takenLength e, trail := takenTrail e, cSoft := min 4000 e.cSoft.toNat,
        cFirm := min 4000 e.cFirm.toNat, pos := admissionPosition s e c, admissionMs := s.sched.msCount,
        admissionNo := s.sched.admissionNo } := by
  rw [createdWindows_taken, wheelsOf_track htrack]
  exact List.map_congr_left fun c _ => newWindow_taken s e track asked c

theorem createdWindows_any (c : Corner) : ((createdWindows s (takenEvent e track asked)).any fun w => w.corner == c) =
    decide (c ∈ (wheelsOf e.track).filter fun c => !passedAtAdmission s e c) := by
  rw [createdWindows_wheels s htrack, List.any_map, Bool.eq_iff_iff, decide_eq_true_iff, List.any_eq_true]
  simp only [Function.comp, beq_iff_eq]
  exact ⟨fun ⟨d, hd, heq⟩ => heq ▸ hd, fun hc => ⟨c, hc, rfl⟩⟩

theorem createdCorners_byte : cornerSetByte (createdCorners s (takenEvent e track asked)) =
    BitVec.ofNat 8 (bit (.fl ∈ (wheelsOf e.track).filter fun c => !passedAtAdmission s e c)
      + 2 * bit (.fr ∈ (wheelsOf e.track).filter fun c => !passedAtAdmission s e c)
      + 4 * bit (.rl ∈ (wheelsOf e.track).filter fun c => !passedAtAdmission s e c)
      + 8 * bit (.rr ∈ (wheelsOf e.track).filter fun c => !passedAtAdmission s e c)) := by
  rw [cornerSetByte, PerCorner.toList, bitsByte_four]
  simp only [createdCorners, PerCorner.build, createdWindows_any s htrack]

theorem enteredReport_taken : enteredReport s (takenEvent e track asked) =
    if asked = .early ∧ (∀ c ∈ (wheelsOf e.track).filter fun c => !passedAtAdmission s e c, c.isFront = false)
    then .forcedLate else asked := by
  rw [enteredReport, createdWindows_wheels s htrack]
  simp only [takenEvent, List.all_map, List.all_eq_true, Function.comp, Bool.not_eq_true']

end

/-- With a wheel not passed no rear wheel is passed, so only front windows are skipped at the admission. -/
theorem rearSkipped_none (s : State) {e : EventFields} (track : Track) (asked : ReportPoint)
    (hsome : ∃ c ∈ wheelsOf e.track, passedAtAdmission s e c = false) :
    rearSkipped s (takenEvent e track asked) = 0 := by
  obtain ⟨c, -, hc⟩ := hsome
  rw [rearSkipped_taken, List.length_eq_zero_iff, List.filter_eq_nil_iff]
  intro d _ hd
  rw [Bool.and_eq_true, Bool.not_eq_true'] at hd
  rw [passed_of_rear_passed hd.1 hd.2 c] at hc
  cases hc

theorem performPreviewEvent_ok (h : LinkHeader) {s : State} {e : EventFields} {t : TakenEvent}
    (hok : admissionCheck s e = .ok t) : performPreviewEvent h e s = answerDone h
      [e.tag, BitVec.ofNat 8 (enteredReport s t).code, cornerSetByte (createdCorners s t),
       BitVec.ofNat 8 (frontSkipped s t + rearSkipped s t), bitsByte t.clamped] (admitEvent s t) := by
  simp only [performPreviewEvent, hok]

theorem admitEvent_linkKept (s : State) (t : TakenEvent) : linkKept s (admitEvent s t) := setSched_linkKept s _

theorem clampedByte_taken (e : EventFields) (track : Track) (asked : ReportPoint) :
    bitsByte (takenEvent e track asked).clamped =
      BitVec.ofNat 8 (bit (takenLength e ≠ 10 * e.length.toNat) + 2 * bit (takenLead e ≠ 10 * e.lead.toNat)
        + 4 * bit (takenTrail e ≠ 10 * e.trail.toNat) + 8 * bit (4000 < e.cSoft.toNat)
        + 16 * bit (4000 < e.cFirm.toNat)) := bitsByte_five _ _ _ _ _

/-- Settles O17: every check passes, and the admission is that of the fields as clamped. -/
theorem admissionMakesEventAndWindows : Obligations.AdmissionMakesEventAndWindows := by
  intro h e s track asked hheld hfit hpart htag hfree hvalues htrack hasked hdirection hsome
  dsimp only
  have hok : admissionCheck (received .previewEvent h s) e = .ok (takenEvent e track asked) := by
    rw [admissionCheck_fields (s := received .previewEvent h s) hpart htag hfree, takeEvent_taken htrack hasked hvalues]
    have hsome' : ¬createdWindows (received .previewEvent h s) (takenEvent e track asked) = [] := fun hnil => by
      obtain ⟨c, hc, hnot⟩ := hsome
      have hpassed := (createdWindows_nil (s := received .previewEvent h s) htrack asked).1 hnil c hc
      exact Bool.false_ne_true (hnot.symm.trans hpassed)
    simp only [received_motion, hdirection]
    rw [if_neg (not_not.2 rfl), if_neg hsome']
  obtain ⟨r, hrun, hframe, hreply⟩ := transact_done (i := .previewEvent h e) rfl hheld hfit
    (performPreviewEvent_ok h hok) (admitEvent_linkKept _ _)
  have hrear := rearSkipped_none (received .previewEvent h s) track asked hsome
  have hfront := frontSkipped_taken (received .previewEvent h s) e track asked
  rw [← wheelsOf_track htrack] at hfront
  refine ⟨_, hrun, hframe, ?_, rfl, rfl, rfl, rfl, rfl, rfl, rfl, ?_⟩
  · simp only [State.setReply_sched, admitEvent, State.setSched_sched, newEvent, hrear, hfront,
      enteredReport_taken _ htrack, createdWindows_wheels _ htrack]
    rfl
  · rw [hrear, hfront, createdCorners_byte _ htrack, enteredReport_taken _ htrack, clampedByte_taken, Nat.add_zero] at hreply
    exact hreply

end Sys2Proof.Machine
end

section
/-! PROOFS. CANCEL_EVENT and the requests that name corners: CORNER_OPTIONS, READ_CORNER, CLEAR_FAULTS. -/

namespace Sys2Proof.Machine

open Sys2Proof

/-! ## CANCEL_EVENT (R67, R68, R82) -/

theorem tagInList_iff (sch : Scheduler) (tag : Nat) :
    sch.tagInList tag = true ↔ tag ∈ sch.completions.map Completion.tag := by
  simp [Scheduler.tagInList]

theorem ofEvent_eq_decide (tag : Nat) (w : Window) : ofEvent tag w = decide (w.parent = .event tag) := by
  by_cases h : w.parent = .event tag <;> simp [ofEvent, h]

theorem mem_held {a : Arbiter} {x : HeldWindow} (h : a.active = some x ∨ x ∈ a.stack ∨ x ∈ a.waiting) :
    x.win ∈ a.held := by
  simp only [Arbiter.held, List.mem_map, List.mem_append, Option.mem_toList]
  rcases h with h | h
  · exact .inl ⟨x, h, rfl⟩
  · exact .inr ⟨x, h, rfl⟩

/-- A removal of nothing leaves the arbiter as it was. -/
theorem removeWindows_held_none {p : Window → Bool} {a : Arbiter} (defer : Bool) (h : ∀ w ∈ a.held, p w = false) :
    removeWindows p defer a = a := by
  have hactive : ∀ x, a.active = some x → p x.win = false := fun x hx => h _ (mem_held (.inl hx))
  have hstack : (a.stack.filter fun x => !p x.win) = a.stack :=
    List.filter_eq_self.2 fun x hx => by rw [h x.win (mem_held (.inr (.inl hx)))]; rfl
  have hwaiting : (a.waiting.filter fun x => !p x.win) = a.waiting :=
    List.filter_eq_self.2 fun x hx => by rw [h x.win (mem_held (.inr (.inr hx)))]; rfl
  rw [removeWindows_kept defer hactive, withoutHeld, hstack, hwaiting]

theorem performCancelEvent_runs (h : LinkHeader) (tag : Byte) {s : State}
    (hpart : s.sup.part = .standby ∨ s.sup.part = .active ∨ s.sup.part = .stopping) :
    performCancelEvent h tag s =
      if 24 ≤ tag.toNat then refuse h .badTag s
      else
        match s.sched.events.find? fun e => e.tag == tag.toNat with
        | some e => answerDone h [tag, BitVec.ofNat 8 (s.liveWindows e.tag).length] (cancel e s)
        | none => if s.sched.tagInList tag.toNat then refuse h .alreadyDone s else refuse h .notFound s := by
  have hstart : s.sup.part ≠ .start := by rcases hpart with h | h | h <;> simp [h]
  have hlimp : s.sup.part ≠ .limp := by rcases hpart with h | h | h <;> simp [h]
  rw [performCancelEvent, if_neg hstart, if_neg hlimp] <;> rfl

theorem cancel_linkKept (e : Event) (s : State) : linkKept s (cancel e s) := ⟨rfl, rfl, rfl, rfl, rfl, rfl, rfl⟩

/-- The event of a tag, found where no event before it has the tag. -/
theorem find?_tag {before after : List Event} {e : Event} {tag : Nat} (he : e.tag = tag) (hnot : ∀ x ∈ before, x.tag ≠ tag) :
    (before ++ e :: after).find? (fun x => x.tag == tag) = some e := by
  rw [List.find?_append, List.find?_eq_none.2 fun x hx => by simpa using hnot x hx,
    List.find?_cons_of_pos (by simpa using he)]
  rfl

/-- The table without the event of a tag. -/
theorem filter_tag {before after : List Event} {e : Event} (hnot : ∀ x ∈ before ++ after, x.tag ≠ e.tag) :
    ((before ++ e :: after).filter fun x => x.tag != e.tag) = before ++ after := by
  have hkeep : ∀ l : List Event, (∀ x ∈ l, x.tag ≠ e.tag) → (l.filter fun x => x.tag != e.tag) = l := fun l hl =>
    List.filter_eq_self.2 fun x hx => bne_iff_ne.2 (hl x hx)
  rw [List.filter_append, List.filter_cons_of_neg (by simp), hkeep _ fun x hx => hnot x (List.mem_append_left _ hx),
    hkeep _ fun x hx => hnot x (List.mem_append_right _ hx)]

/-- Settles O24: the checks, then the removal at every arbiter and the posting. -/
theorem cancelEndsAnEvent : Obligations.CancelEndsAnEvent := by
  intro h tag s hheld hfit hpart
  have hparts : requestParts (.cancelEvent h tag) = some (.cancelEvent, h, [tag]) := rfl
  have hruns := performCancelEvent_runs h tag (s := received .cancelEvent h s) hpart
  refine ⟨fun htag => transact_refuses hparts hheld hfit (by rw [hruns, if_pos htag]), fun htag hnone => ?_, ?_⟩
  · have hfind : s.sched.events.find? (fun e => e.tag == tag.toNat) = none :=
      List.find?_eq_none.2 fun e he => by simpa using hnone e he
    rw [if_neg (Nat.not_le.2 htag), received_sched, hfind] at hruns
    refine ⟨fun hin => transact_refuses hparts hheld hfit ?_, fun hout => transact_refuses hparts hheld hfit ?_⟩
    · rw [hruns]
      exact if_pos ((tagInList_iff _ _).2 hin)
    · rw [hruns]
      exact if_neg (mt (tagInList_iff _ _).1 hout)
  · intro before e after htag hevents he hnot
    have hfind : s.sched.events.find? (fun e => e.tag == tag.toNat) = some e := by
      rw [hevents]
      exact find?_tag he fun x hx => hnot x (List.mem_append_left _ hx)
    rw [if_neg (Nat.not_le.2 htag), received_sched, hfind] at hruns
    obtain ⟨r, hrun, hframe, hreply⟩ := transact_done hparts hheld hfit hruns (cancel_linkKept _ _)
    refine ⟨_, hrun, hframe, hreply, ?_, fun c => ?_, rfl, rfl, rfl, rfl, rfl, rfl⟩
    · rw [State.setReply_sched, cancel_sched, post, received_sched]
      simp only [hevents, filter_tag (he ▸ hnot), ofEvent_eq_decide, ← decide_not]
    · have harb : ((cancel e (received .cancelEvent h s)).setReply r).arb.get c =
          removeWindows (ofEvent e.tag) false (s.arb.get c) := cancel_arb e _ c
      rw [harb]
      refine ⟨rfl, fun w hw => ?_, fun hnone => removeWindows_held_none false fun w hw => ?_⟩
      · have hleft := (List.mem_filter.1 ((removeWindows_perm _ _).subset hw)).2
        simpa [ofEvent_eq_decide] using hleft
      · rw [ofEvent_eq_decide, decide_eq_false_iff_not]
        exact hnone w hw

/-! ## CORNER_OPTIONS (R89, R138) -/

theorem takenSeverity_eq (b : Byte) : takenSeverity b = max 1 (min 8 b.toNat) := clampNat_eq _ _ _ (by decide)

/-- The two bits of a report mask as sent back. -/
theorem maskByte_eq (mask : Byte) : bitsByte [mask.getLsbD 0, mask.getLsbD 1] = mask &&& 3 := by
  revert mask
  decide +kernel

theorem applyOptions_eq (o : PerCorner OptionFields) (s : State) : applyOptions o s = { s with
    arb := PerCorner.build fun c => setOptions (o.get c) (s.arb.get c),
    sup := { s.sup with
      faultNew := s.sup.faultNew || Corner.all.any fun c => !s.faultSummary c && (applyOptions o s).faultSummary c } } := by
  have hsame : ∀ c, (applyOptions o s).faultSummary c =
      ({ s with arb := PerCorner.build fun c => setOptions (o.get c) (s.arb.get c) } : State).faultSummary c := fun c => by
    rw [applyOptions, noteFaultRise_eq]
    rfl
  simp only [hsame]
  rw [applyOptions, noteFaultRise_eq]
  rfl

theorem applyOptions_linkKept (o : PerCorner OptionFields) (s : State) : linkKept s (applyOptions o s) := by
  rw [applyOptions_eq]
  exact ⟨rfl, rfl, rfl, rfl, rfl, rfl, rfl⟩

theorem applyOptions_arb (o : PerCorner OptionFields) (s : State) (c : Corner) :
    (applyOptions o s).arb.get c = setOptions (o.get c) (s.arb.get c) := by
  rw [applyOptions_eq]
  exact PerCorner.get_build _ c

/-- The options in force after the request, as sent back. -/
theorem optionsInForce_applied (o : PerCorner OptionFields) (s : State) :
    (applyOptions o s).arb.toList.flatMap optionsInForce =
      Corner.all.flatMap fun c => [BitVec.ofNat 8 (takenSeverity (o.get c).minSeverity), (o.get c).mask &&& 3] := by
  have hone : ∀ c, optionsInForce ((applyOptions o s).arb.get c) =
      [BitVec.ofNat 8 (takenSeverity (o.get c).minSeverity), (o.get c).mask &&& 3] := fun c => by
    rw [applyOptions_arb, optionsInForce, setOptions, maskByte_eq]
  have hlist : (applyOptions o s).arb.toList = Corner.all.map (applyOptions o s).arb.get := rfl
  rw [hlist, List.flatMap_map]
  exact List.flatMap_congr fun c _ => hone c

/-- Settles O27. -/
theorem cornerOptionsReplaceAllCorners : Obligations.CornerOptionsReplaceAllCorners := by
  intro h o s hheld hfit
  refine ⟨fun hpart => ?_, fun hpart => transact_refuses rfl hheld hfit (by simp [performCornerOptions, hpart])⟩
  have hanswer : performCornerOptions h o (received .cornerOptions h s) = answerDone h
      (cornerSetByte (o.map fun f => takenSeverity f.minSeverity != f.minSeverity.toNat)
        :: (applyOptions o (received .cornerOptions h s)).arb.toList.flatMap optionsInForce)
      (applyOptions o (received .cornerOptions h s)) := by
    rcases hpart with hpart | hpart <;> simp only [performCornerOptions, received_sup, hpart]
  obtain ⟨r, hrun, hframe, hreply⟩ := transact_done (i := .cornerOptions h o) rfl hheld hfit hanswer
    (applyOptions_linkKept _ _)
  have hchange := applyOptions_eq o (received .cornerOptions h s)
  refine ⟨_, hrun, hframe, fun c => ?_, ?_, ?_, ?_⟩
  · dsimp only
    rw [← takenSeverity_eq]
    exact applyOptions_arb o _ c
  · exact congrArg State.sup hchange
  · rw [optionsInForce_applied, cornerSetByte, PerCorner.toList, bitsByte_four] at hreply
    simp only [← takenSeverity_eq]
    simp only [bne_eq_decide_ne] at hreply
    exact hreply
  · refine ⟨?_, ?_, ?_, ?_, ?_, ?_⟩ <;> rw [hchange] <;> rfl

/-! ## READ_CORNER (R41, R42) -/

theorem cornerOfCode_none {b : Byte} (h : 4 ≤ b.toNat) : cornerOfCode b = none := by
  revert b
  decide +kernel

theorem cornerOfCode_index {b : Byte} {c : Corner} (h : c.index = b.toNat) :
    cornerOfCode b = some c ∧ BitVec.ofNat 8 c.index = b := by
  cases c <;> revert b <;> decide +kernel

/-- The ACTIVE window's byte and phase byte (section 11.4). -/
theorem activeBytes_eq (a : Arbiter) :
    (a.active = none → activeByte a = 0xFF ∧ activePhase a = 0) ∧
    ∀ x, a.active = some x →
      (∀ tag, x.win.parent = .event tag → activeByte a = BitVec.ofNat 8 tag) ∧
      (x.win.parent = .orphan → activeByte a = 0xFE) ∧
      (0 < x.win.pos → x.win.pos ≤ x.win.lead → activePhase a = 1) ∧
      (-(x.win.length : Int) < x.win.pos → x.win.pos ≤ 0 → activePhase a = 2) ∧
      (¬x.win.isPassed → x.win.pos ≤ -(x.win.length : Int) → activePhase a = 3) := by
  refine ⟨fun hnone => by simp only [activeByte, activePhase, hnone, and_self], fun x hx => ?_⟩
  have hphase : activePhase a = BitVec.ofNat 8 (windowPhase x.win).code := by simp only [activePhase, hx]
  refine ⟨fun tag hp => by simp only [activeByte, hx, hp], fun hp => by simp only [activeByte, hx, hp],
    fun h0 h1 => ?_, fun h0 h1 => ?_, fun h0 h1 => ?_⟩ <;> rw [hphase]
  · rw [windowPhase_approach h0 h1]
    rfl
  · rw [windowPhase_contact h1 h0]
    rfl
  · rw [windowPhase_rebound h1 (Int.not_le.1 h0)]
    rfl

/-- Settles O28. -/
theorem readCornerShowsTheCorner : Obligations.ReadCornerShowsTheCorner := by
  intro h number s hheld hfit hpart
  refine ⟨fun hnumber => transact_refuses rfl hheld hfit ?_, fun c hc => ?_⟩
  · rw [performReadCorner, received_sup, if_neg hpart, cornerOfCode_none hnumber]
  · obtain ⟨hcode, hindex⟩ := cornerOfCode_index hc
    have hanswer : performReadCorner h number (received .readCorner h s) =
        answerDone h (snapshot c s) (received .readCorner h s) := by
      rw [performReadCorner, received_sup, if_neg hpart, hcode]
      rfl
    obtain ⟨r, hrun, hframe, hreply⟩ := transact_done (i := .readCorner h number) rfl hheld hfit hanswer (linkKept_refl _)
    refine ⟨_, hrun, hframe, blocksKept_received _ _ _ _, activeByte (s.arb.get c), activePhase (s.arb.get c), ?_⟩
    obtain ⟨hnone, hsome⟩ := activeBytes_eq (s.arb.get c)
    refine ⟨hnone, hsome, ?_⟩
    rw [snapshot, hindex, bitsByte_four] at hreply
    exact hreply

/-! ## CLEAR_FAULTS (R134, R135) -/

theorem namesSome_iff (corners : Byte) : namesSome corners = true ↔ corners &&& 0x0F ≠ 0 := by
  revert corners
  decide +kernel

theorem performClearFaults_runs (h : LinkHeader) (corners : Byte) {s : State}
    (hpart : s.sup.part = .standby ∨ s.sup.part = .limp) :
    performClearFaults h corners s =
      if namesSome corners then
        answerDone h
          ((clearNamed corners s).drive.toList.map (fun d => BitVec.ofNat 8 d.state.code)
            ++ [cornerSetByte (faultsCleared corners s)])
          (clearNamed corners s)
      else refuse h .badValue s := by
  rcases hpart with hpart | hpart <;> simp only [performClearFaults, hpart]

theorem clearNamed_linkKept (corners : Byte) (s : State) : linkKept s (clearNamed corners s) :=
  ⟨rfl, rfl, rfl, rfl, rfl, rfl, rfl⟩

/-- A stage after the request, by whether it is named, faulted, and may drive again (R135). -/
theorem clearedStage_cases (corners : Byte) (s : State) (c : Corner) :
    (corners.getLsbD c.index = false → clearedStage corners s c = s.drive.get c) ∧
    (corners.getLsbD c.index = true →
      ((s.drive.get c).state.isHardFault = false →
        clearedStage corners s c = { s.drive.get c with regLow := false, lowRun := 0, inRun := 0 }) ∧
      ((s.drive.get c).state.isHardFault = true → s.sup.source.get c ≠ .none → s.drven = true →
        clearedStage corners s c = { switchedOn (s.drive.get c) with regLow := false }) ∧
      ((s.drive.get c).state.isHardFault = true → s.sup.source.get c = .none ∨ s.drven = false →
        clearedStage corners s c = { s.drive.get c with state := .off, regLow := false, lowRun := 0, inRun := 0 })) := by
  refine ⟨fun hnot => by simp [clearedStage, namedCorner, hnot], fun hnamed => ⟨fun hok => ?_, fun hfault hsource hdrven =>
    ?_, fun hfault hquiet => ?_⟩⟩
  · simp [clearedStage, namedCorner, hnamed, clearStage, hok]
  · simp [clearedStage, namedCorner, hnamed, clearStage, hfault, (selected_iff _).2 hsource, hdrven, enterRegulating_eq,
      switchedOn]
  · rcases hquiet with hquiet | hquiet <;>
      simp [clearedStage, namedCorner, hnamed, clearStage, hfault, hquiet, Source.selected]

/-- A byte of corner indications has nothing above bit 3. -/
theorem cornerSetByte_high (v : PerCorner Bool) : cornerSetByte v &&& 0xF0 = 0 := by
  obtain ⟨a, b, c, d⟩ := v
  revert a b c d
  decide

/-- Settles O29. -/
theorem clearFaultsReleasesNamedStages : Obligations.ClearFaultsReleasesNamedStages := by
  intro h corners s hheld hfit
  have hparts : requestParts (.clearFaults h corners) = some (.clearFaults, h, [corners]) := rfl
  refine ⟨fun hpart => transact_refuses hparts hheld hfit (by
    rcases hpart with hpart | hpart <;> simp [performClearFaults, hpart]), fun hpart => ?_⟩
  have hruns := performClearFaults_runs h corners (s := received .clearFaults h s) hpart
  refine ⟨fun hnone => transact_refuses hparts hheld hfit ?_, fun hsome => ?_⟩
  · rw [hruns, if_neg fun hnames => (namesSome_iff corners).1 hnames hnone]
  · rw [if_pos ((namesSome_iff corners).2 hsome)] at hruns
    obtain ⟨r, hrun, hframe, hreply⟩ := transact_done hparts hheld hfit hruns (clearNamed_linkKept _ _)
    have hget : ∀ c, ((clearNamed corners (received .clearFaults h s)).setReply r).drive.get c =
        clearedStage corners s c := fun c => PerCorner.get_build _ c
    refine ⟨_, hrun, hframe, ?_⟩
    dsimp only
    simp only [hget, ← isHardFault_iff, Bool.not_eq_true]
    refine ⟨fun c => (clearedStage_cases corners s c).1, fun c hnamed => ((clearedStage_cases corners s c).2 hnamed).1,
      fun c hnamed => ((clearedStage_cases corners s c).2 hnamed).2.1,
      fun c hnamed => ((clearedStage_cases corners s c).2 hnamed).2.2,
      ⟨cornerSetByte (faultsCleared corners s), fun c => ?_, cornerSetByte_high _, hreply⟩, rfl, rfl, rfl, rfl, rfl, rfl, rfl⟩
    rw [bitsByte_getLsbD_corner, faultsCleared, PerCorner.get_build, Bool.and_eq_true, namedCorner]

end Sys2Proof.Machine
end

section
/-! PROOFS. Drive periods (R119, R124 to R133): what a stage's period leaves, by the state it starts in, and the rows that
name one. -/

namespace Sys2Proof.Machine

open Sys2Proof

/-! ## The parts of a REGULATING period -/

/-- Counting with the status of the period: low and in-band exclude each other (R126, R127). -/
theorem countStatus_status (d : Drive) (e : Int) (duty : Nat) :
    countStatus { d with duty := duty, status := regulationStatus e duty } = { d with
      duty := duty
      status := if e.natAbs ≤ 20 then .inBand else if duty = 950 ∧ 20 < e then .low
        else if duty = 0 ∧ e < -20 then .high else .tracking
      lowRun := if duty = 950 ∧ 20 < e then min 100 (d.lowRun + 1) else 0
      inRun := if e.natAbs ≤ 20 then min 100 (d.inRun + 1) else 0
      regLow := if (duty = 950 ∧ 20 < e) ∧ 100 ≤ d.lowRun + 1 then true
        else if e.natAbs ≤ 20 ∧ 100 ≤ d.inRun + 1 then false else d.regLow } := by
  have hfull : ∀ n : Nat, (min 100 (n + 1) = 100 ↔ 100 ≤ n + 1) := fun n => by omega
  by_cases hin : e.natAbs ≤ 20
  · have hnot : ¬(duty = 950 ∧ 20 < e) := fun h => by omega
    by_cases hrun : 100 ≤ d.inRun + 1 <;> simp [countStatus, regulationStatus, hin, hnot, hrun, hfull, bne]
  · by_cases hlow : duty = 950 ∧ 20 < e
    · by_cases hrun : 100 ≤ d.lowRun + 1 <;> simp [countStatus, regulationStatus, hin, hlow, hrun, hfull]
    · by_cases hhigh : duty = 0 ∧ e < -20 <;> simp [countStatus, regulationStatus, hin, hlow, hhigh]

/-- Short of the fiftieth open test the period goes on to the clean-run count (R128, R131). -/
theorem openAndClean_counts {d : Drive} (h : openTestMet d = true → d.openCount + 1 < 50) :
    openAndClean d = countClean { d with openCount := if openTestMet d = true then d.openCount + 1 else 0 } := by
  by_cases hmet : openTestMet d = true
  · rw [openAndClean, if_pos hmet, if_neg (by have := h hmet; omega), if_pos hmet]
  · rw [openAndClean, if_neg hmet, if_neg hmet]

theorem openTestMet_iff (d : Drive) : openTestMet d = true ↔ d.duty = 950 ∧ 200 ≤ d.target ∧ d.iMeas < 30 := by
  simp [openTestMet, and_assoc]

theorem nextDuty_eq (s : State) (d : Drive) (measured : Nat) :
    loopDuty (loopGain s.cal.working) { d with iMeas := measured, target := d.latch } = nextDuty s d measured := by
  rw [loopDuty, clampInt_eq _ _ _ (by decide)]
  rfl

/-! ## The rows that name a drive period (R127, R128, R130, R131) -/

theorem whenOccurs_eq {occasion : State → Bool} {f : State → State} {s : State} (hheld : s.held = false) :
    whenOccurs occasion f s = if occasion s = true then .next (f s) else .next s := by
  split
  case isTrue h => exact whenOccurs_at hheld h
  case isFalse h => exact whenOccurs_not (Bool.eq_false_iff.2 h)

section
variable (c : Corner) (current : Nat) {s : State} (hheld : s.held = false)
include hheld

theorem drivePeriod_runs : exec (.drivePeriod c current) s = .next (drivePeriod c current s) := whenRunning_running hheld

theorem retryTimerExpiry_eq : exec (.retryTimerExpiry c current) s =
    if (s.drive.get c).state = .overloadWait ∧ 10 * retryDelay s.cal.working ≤ (s.drive.get c).wait + 1
    then exec (.drivePeriod c current) s else .next s := by
  rw [drivePeriod_runs c current hheld, exec, execRetryTimerExpiry, whenOccurs_eq hheld]
  simp only [Bool.and_eq_true, beq_iff_eq, decide_eq_true_eq, ge_iff_le]

theorem openCoilDetected_eq : exec (.openCoilDetected c current) s =
    if (s.drive.get c).state ≠ .faultOpen ∧ (periodStage c current s).state = .faultOpen
    then exec (.drivePeriod c current) s else .next s := by
  rw [drivePeriod_runs c current hheld, exec, execOpenCoilDetected, whenOccurs_eq hheld]
  simp only [Bool.and_eq_true, beq_iff_eq, bne_iff_ne]

theorem regLowSet_eq : exec (.regLowSet c current) s =
    if (s.drive.get c).regLow = false ∧ (periodStage c current s).regLow = true
    then exec (.drivePeriod c current) s else .next s := by
  rw [drivePeriod_runs c current hheld, exec, execRegLowSet, whenOccurs_eq hheld]
  simp only [Bool.and_eq_true, Bool.not_eq_true']

theorem regLowClear_eq : exec (.regLowClear c current) s =
    if (s.drive.get c).regLow = true ∧ (periodStage c current s).regLow = false
    then exec (.drivePeriod c current) s else .next s := by
  rw [drivePeriod_runs c current hheld, exec, execRegLowClear, whenOccurs_eq hheld]
  simp only [Bool.and_eq_true, Bool.not_eq_true']

theorem cleanRunExpiry_eq : exec (.cleanRunExpiry c current) s =
    if (s.drive.get c).cleanRun < 10000 ∧ (periodStage c current s).cleanRun = 10000
    then exec (.drivePeriod c current) s else .next s := by
  rw [drivePeriod_runs c current hheld, exec, execCleanRunExpiry, whenOccurs_eq hheld]
  simp only [Bool.and_eq_true, beq_iff_eq, decide_eq_true_eq]

end

/-! ## A whole period, by the state it starts in -/

/-- What a REGULATING period leaves of a stage, short of a fault (R125 to R128, R131). -/
def regulatedStage (s : State) (d : Drive) (measured : Nat) : Drive :=
  let e := loopError d measured
  let duty := nextDuty s d measured
  let status : RegStatus :=
    if e.natAbs ≤ 20 then .inBand else if duty = 950 ∧ 20 < e then .low
    else if duty = 0 ∧ e < -20 then .high else .tracking
  { state := .regulating, duty := duty, iMeas := measured, target := d.latch, latch := d.latch,
    status := status, shownDuty := duty, shownStatus := status,
    lowRun := if duty = 950 ∧ 20 < e then min 100 (d.lowRun + 1) else 0,
    inRun := if e.natAbs ≤ 20 then min 100 (d.inRun + 1) else 0,
    regLow := if (duty = 950 ∧ 20 < e) ∧ 100 ≤ d.lowRun + 1 then true
      else if e.natAbs ≤ 20 ∧ 100 ≤ d.inRun + 1 then false else d.regLow,
    openCount := if duty = 950 ∧ 200 ≤ d.latch ∧ measured < 30 then d.openCount + 1 else 0,
    retry := if 10000 ≤ d.cleanRun + 1 then 0 else d.retry,
    wait := d.wait,
    cleanRun := min 10000 (d.cleanRun + 1) }

/-- The stage after loop and status of a period, before the open-coil test. -/
def loopedStage (s : State) (d : Drive) (measured : Nat) : Drive :=
  countStatus { d with
    iMeas := measured, target := d.latch, duty := nextDuty s d measured,
    status := regulationStatus (loopError d measured) (nextDuty s d measured) }

theorem regulate_below {s : State} {d : Drive} {measured : Nat} (hbelow : measured ≤ overcurrentThreshold s.cal.working) :
    regulate s.cal.working { d with iMeas := measured, target := d.latch } = openAndClean (loopedStage s d measured) := by
  rw [regulate, if_neg (Nat.not_lt.2 hbelow), nextDuty_eq]
  rfl

theorem loopedStage_open (s : State) (d : Drive) (measured : Nat) :
    (openTestMet (loopedStage s d measured) = true ↔ nextDuty s d measured = 950 ∧ 200 ≤ d.latch ∧ measured < 30) ∧
      (loopedStage s d measured).openCount = d.openCount := by
  rw [openTestMet_iff, loopedStage, countStatus_status { d with iMeas := measured, target := d.latch }]
  exact ⟨Iff.rfl, rfl⟩

theorem periodStage_regulating {c : Corner} {current : Nat} {s : State} (hstate : (s.drive.get c).state = .regulating) :
    periodStage c current s = endPeriod (regulate s.cal.working { s.drive.get c with
      iMeas := min 4095 current, target := (s.drive.get c).latch }) := by
  simp only [periodStage, stagePeriod, periodOutcome, hstate]

theorem periodStage_regulated {c : Corner} {current : Nat} {s : State} (hstate : (s.drive.get c).state = .regulating)
    (hbelow : min 4095 current ≤ overcurrentThreshold s.cal.working)
    (hopen : nextDuty s (s.drive.get c) (min 4095 current) = 950 ∧ 200 ≤ (s.drive.get c).latch ∧ min 4095 current < 30 →
      (s.drive.get c).openCount + 1 < 50) :
    periodStage c current s = regulatedStage s (s.drive.get c) (min 4095 current) := by
  generalize hd : s.drive.get c = d at *
  obtain ⟨hmet, hcount⟩ := loopedStage_open s d (min 4095 current)
  rw [periodStage_regulating (by rw [hd]; exact hstate), hd, regulate_below hbelow,
    openAndClean_counts (fun h => hcount ▸ hopen (hmet.1 h))]
  simp only [hmet, hcount]
  rw [loopedStage, countStatus_status { d with iMeas := min 4095 current, target := d.latch }]
  have hfull : (min 10000 (d.cleanRun + 1) = 10000 ↔ 10000 ≤ d.cleanRun + 1) := by omega
  simp only [countClean, endPeriod, regulatedStage, hstate, hfull]

/-- A period that does not enter a fault state is the stage step alone. -/
theorem drivePeriod_steps_of_not_entered {c : Corner} {current : Nat} {s : State} (hheld : s.held = false)
    (hnot : faultEntered (s.drive.get c) (periodStage c current s) = false) :
    exec (.drivePeriod c current) s = .next (stageStep c current s) ∧ stageStepped c s (stageStep c current s) := by
  refine ⟨(drivePeriod_runs c current hheld).trans ?_, stageStep_stageStepped c current s⟩
  rw [drivePeriod_eq, if_neg (Bool.eq_false_iff.1 hnot)]

theorem drivePeriod_steps {c : Corner} {current : Nat} {s : State} (hheld : s.held = false)
    (hstate : (periodStage c current s).state.isHardFault = false) :
    exec (.drivePeriod c current) s = .next (stageStep c current s) ∧ stageStepped c s (stageStep c current s) :=
  drivePeriod_steps_of_not_entered hheld (by rw [faultEntered, hstate, Bool.and_false])

/-- A period that enters a fault state hands it to the supervisor. -/
theorem drivePeriod_faults {c : Corner} {current : Nat} {s : State} (hbefore : (s.drive.get c).state.isHardFault = false)
    (hafter : (periodStage c current s).state.isHardFault = true) :
    faultHanded (stageStep c current s) (drivePeriod c current s) := by
  rw [drivePeriod_eq, if_pos (by simp [faultEntered, hbefore, hafter])]
  exact takeLimpCause_handed _

/-- Settles O30. -/
theorem regulatingPeriodRunsTheLoop : Obligations.RegulatingPeriodRunsTheLoop := by
  intro c current s hheld
  dsimp only
  intro hstate hbelow hopen _
  have hstage := periodStage_regulated hstate hbelow hopen
  obtain ⟨hrun, hstep⟩ := drivePeriod_steps (c := c) (current := current) hheld (by rw [hstage]; rfl)
  exact ⟨_, hrun, hstep, (stageStep_drive c current s).trans hstage⟩

/-! ## Hard faults (R128, R129) -/

theorem periodStage_overcurrent {c : Corner} {current : Nat} {s : State} (hstate : (s.drive.get c).state = .regulating)
    (hover : overcurrentThreshold s.cal.working < min 4095 current) :
    periodStage c current s = endPeriod (overcurrentPeriod (retryLimit s.cal.working) { s.drive.get c with
      iMeas := min 4095 current, target := (s.drive.get c).latch }) := by
  rw [periodStage_regulating hstate, regulate, if_pos hover]

/-- The fiftieth open test in a row: status LOW was counted, then the stage is cut (R128). -/
theorem periodStage_open {c : Corner} {current : Nat} {s : State} (hstate : (s.drive.get c).state = .regulating)
    (hbelow : min 4095 current ≤ overcurrentThreshold s.cal.working)
    (hduty : nextDuty s (s.drive.get c) (min 4095 current) = 950) (hlatch : 200 ≤ (s.drive.get c).latch)
    (hsmall : min 4095 current < 30) (hcount : (s.drive.get c).openCount = 49) :
    periodStage c current s = { s.drive.get c with
      state := .faultOpen, duty := 0, iMeas := min 4095 current, target := (s.drive.get c).latch, status := .none,
      shownDuty := 0, shownStatus := .none, lowRun := 0, inRun := 0,
      regLow := (s.drive.get c).regLow || decide (100 ≤ (s.drive.get c).lowRun + 1), openCount := 0, retry := 0,
      cleanRun := 0 } := by
  rw [periodStage_regulating hstate]
  generalize s.drive.get c = d at *
  obtain ⟨hmet, hopen⟩ := loopedStage_open s d (min 4095 current)
  have hlow : nextDuty s d (min 4095 current) = 950 ∧ 20 < loopError d (min 4095 current) :=
    ⟨hduty, by simp only [loopError]; omega⟩
  have hout : ¬(loopError d (min 4095 current)).natAbs ≤ 20 := by omega
  rw [regulate_below hbelow, openAndClean, if_pos (hmet.2 ⟨hduty, hlatch, hsmall⟩), if_pos (by omega), loopedStage,
    countStatus_status { d with iMeas := min 4095 current, target := d.latch }]
  by_cases hrun : 100 ≤ d.lowRun + 1 <;> simp [latchOpen, endPeriod, hlow, hout, hrun]

/-- Settles O31. -/
theorem hardFaultsCutTheDrive : Obligations.HardFaultsCutTheDrive := by
  refine ⟨fun c current s hheld => ?_, fun c current s hheld => ?_⟩
  · dsimp only
    intro hstate hover
    have hstage := periodStage_overcurrent hstate hover
    have hbefore : (s.drive.get c).state.isHardFault = false := by rw [hstate]; rfl
    refine ⟨fun hleft => ?_, fun hnone => ?_⟩
    · rw [overcurrentPeriod, if_pos hleft] at hstage
      obtain ⟨hrun, hstep⟩ := drivePeriod_steps (c := c) (current := current) hheld (by rw [hstage]; rfl)
      exact ⟨_, hrun, hstep, (stageStep_drive c current s).trans hstage⟩
    · rw [overcurrentPeriod, if_neg (Nat.not_le.2 hnone)] at hstage
      exact ⟨stageStep c current s, drivePeriod c current s, stageStep_stageStepped c current s,
        (stageStep_drive c current s).trans hstage, whenRunning_running hheld,
        drivePeriod_faults hbefore (by rw [hstage]; rfl)⟩
  · dsimp only
    intro hstate hbelow hduty hlatch hsmall hcount
    have hstage := periodStage_open hstate hbelow hduty hlatch hsmall hcount
    have hbefore : (s.drive.get c).state.isHardFault = false := by rw [hstate]; rfl
    have hrow : exec (.openCoilDetected c current) s = .next (drivePeriod c current s) := by
      rw [openCoilDetected_eq c current hheld, if_pos ⟨by rw [hstate]; nofun, by rw [hstage]⟩]
      exact whenRunning_running hheld
    exact ⟨stageStep c current s, drivePeriod c current s, stageStep_stageStepped c current s,
      (stageStep_drive c current s).trans hstage, whenRunning_running hheld, hrow,
      drivePeriod_faults hbefore (by rw [hstage]; rfl)⟩

/-! ## Periods outside REGULATING (R119, R130, R133) -/

theorem periodStage_idle {c : Corner} {current : Nat} {s : State}
    (hidle : (s.drive.get c).state = .off ∨ (s.drive.get c).state = .faultOpen ∨ (s.drive.get c).state = .faultShort) :
    periodStage c current s = { s.drive.get c with
      iMeas := min 4095 current, target := (s.drive.get c).latch, duty := 0, status := .none, shownDuty := 0,
      shownStatus := .none } := by
  rcases hidle with h | h | h <;> simp only [periodStage, stagePeriod, periodOutcome, h, endPeriod]

theorem periodStage_waits {c : Corner} {current : Nat} {s : State} (hstate : (s.drive.get c).state = .overloadWait)
    (hshort : (s.drive.get c).wait + 1 < 10 * retryDelay s.cal.working) :
    periodStage c current s = { s.drive.get c with
      iMeas := min 4095 current, target := (s.drive.get c).latch, duty := 0, status := .none, shownDuty := 0,
      shownStatus := .none, wait := (s.drive.get c).wait + 1 } := by
  simp only [periodStage, stagePeriod, periodOutcome, hstate, ge_iff_le, if_neg (Nat.not_le.2 hshort), endPeriod]

/-- The end of a retry wait runs as a REGULATING period of the stage just switched on (R130). -/
theorem periodStage_retries {c : Corner} {current : Nat} {s : State} (hstate : (s.drive.get c).state = .overloadWait)
    (hfull : 10 * retryDelay s.cal.working ≤ (s.drive.get c).wait + 1) :
    periodStage c current s = periodStage c current (s.setDrive c (switchedOn (s.drive.get c))) := by
  rw [periodStage_regulating (s := s.setDrive c (switchedOn (s.drive.get c)))
    (by rw [State.setDrive_drive, PerCorner.get_set_self]; rfl)]
  simp only [periodStage, stagePeriod, periodOutcome, hstate, ge_iff_le, if_pos hfull, State.setDrive_drive,
    PerCorner.get_set_self]
  rfl

/-- A stage switched on after its wait leaves every fault summary. -/
theorem setDrive_faultSummary {s : State} {c : Corner} {d : Drive}
    (hfault : d.state.isHardFault = (s.drive.get c).state.isHardFault) (hlow : d.regLow = (s.drive.get c).regLow)
    (e : Corner) : (s.setDrive c d).faultSummary e = s.faultSummary e := by
  by_cases he : e = c
  · subst he
    simp [State.faultSummary, summaryOf, hfault, hlow]
  · simp [State.faultSummary, he]

theorem stageStep_retries {c : Corner} {current : Nat} {s : State} (hstate : (s.drive.get c).state = .overloadWait)
    (hfull : 10 * retryDelay s.cal.working ≤ (s.drive.get c).wait + 1) :
    drivePeriod c current s = drivePeriod c current (s.setDrive c (switchedOn (s.drive.get c))) := by
  have hsame := setDrive_faultSummary (s := s) (c := c) (d := switchedOn (s.drive.get c)) (by rw [hstate]; rfl) rfl
  have hentered : ∀ x : Drive, faultEntered (switchedOn (s.drive.get c)) x = faultEntered (s.drive.get c) x := fun x => by
    rw [faultEntered, faultEntered, hstate]
    rfl
  have hset : ∀ x : Drive, (s.setDrive c (switchedOn (s.drive.get c))).setDrive c x = s.setDrive c x := fun x => by
    simp [State.setDrive]
  have hrises : ∀ t : State, summaryRises (s.setDrive c (switchedOn (s.drive.get c))) t = summaryRises s t := fun t => by
    simp only [summaryRises, hsame]
  simp only [drivePeriod_eq, stageStep, ← periodStage_retries hstate hfull, State.setDrive_drive, PerCorner.get_set_self,
    hentered, noteFaultRise_eq, hset, hrises]

/-- Settles O32. -/
theorem waitingAndIdlePeriods : Obligations.WaitingAndIdlePeriods := by
  intro c current s hheld
  dsimp only
  refine ⟨fun hidle => ?_, fun hstate hshort => ?_, fun hstate hfull => ?_⟩
  · have hstage := periodStage_idle (current := current) hidle
    have hsame : (periodStage c current s).state = (s.drive.get c).state := by rw [hstage]
    have hlow : (periodStage c current s).regLow = (s.drive.get c).regLow := by rw [hstage]
    refine ⟨?_, ?_, ?_, ?_, ?_⟩
    · obtain ⟨hrun, hstep⟩ := drivePeriod_steps_of_not_entered (c := c) (current := current) hheld
        (by rw [faultEntered, hsame, Bool.not_and_self])
      exact ⟨_, hrun, hstep, (stageStep_drive c current s).trans hstage⟩
    · rw [retryTimerExpiry_eq c current hheld, if_neg]
      rintro ⟨hwait, -⟩
      rcases hidle with h | h | h <;> rw [h] at hwait <;> cases hwait
    · rw [openCoilDetected_eq c current hheld, if_neg]
      rw [hsame]
      exact fun h => h.1 h.2
    · rw [regLowSet_eq c current hheld, if_neg]
      rw [hlow]
      exact fun h => Bool.false_ne_true (h.1.symm.trans h.2)
    · rw [regLowClear_eq c current hheld, if_neg]
      rw [hlow]
      exact fun h => Bool.false_ne_true (h.2.symm.trans h.1)
  · have hstage := periodStage_waits (current := current) hstate hshort
    obtain ⟨hrun, hstep⟩ := drivePeriod_steps (c := c) (current := current) hheld (by rw [hstage, hstate]; rfl)
    exact ⟨_, hrun, hstep, (stageStep_drive c current s).trans hstage⟩
  · have hrow : exec (.retryTimerExpiry c current) s = exec (.drivePeriod c current) s := by
      rw [retryTimerExpiry_eq c current hheld, if_pos ⟨hstate, hfull.ge⟩]
    refine ⟨?_, hrow.symm, fun hbelow => ?_⟩
    · rw [hrow, drivePeriod_runs c current hheld, stageStep_retries hstate hfull.ge]
      exact (drivePeriod_runs c current (s := s.setDrive c (switchedOn (s.drive.get c))) hheld).symm
    · have hstage := periodStage_retries (current := current) hstate hfull.ge
      have hon : (s.setDrive c (switchedOn (s.drive.get c))).drive.get c = switchedOn (s.drive.get c) :=
        PerCorner.get_set_self _ _ _
      rw [periodStage_regulated (s := s.setDrive c (switchedOn (s.drive.get c))) (by rw [hon]; rfl) hbelow
        (by rw [hon]; exact fun _ => Nat.lt_of_lt_of_le (Nat.lt_succ_self 1) (by decide)), hon] at hstage
      obtain ⟨hrun, -⟩ := drivePeriod_steps (c := c) (current := current) hheld (by rw [hstage]; rfl)
      refine ⟨_, hrow.trans hrun, ?_⟩
      rw [stageStep_drive, hstage]
      exact ⟨rfl, rfl, rfl, rfl⟩

/-- Settles O33. -/
theorem countedDrivePeriods : Obligations.CountedDrivePeriods := by
  intro c current s hheld
  dsimp only
  intro hstate hbelow hopen
  have hstage := periodStage_regulated (current := current) hstate hbelow fun _ => by omega
  obtain ⟨hrun, hstep⟩ := drivePeriod_steps (c := c) (current := current) hheld (by rw [hstage]; rfl)
  have hdrive : (stageStep c current s).drive.get c = regulatedStage s (s.drive.get c) (min 4095 current) :=
    (stageStep_drive c current s).trans hstage
  refine ⟨fun hduty he hcount hclear => ?_, fun hin hcount hset => ?_, fun hcount => ?_⟩
  · have hlow : (regulatedStage s (s.drive.get c) (min 4095 current)).regLow = true :=
      if_pos ⟨⟨hduty, he⟩, by omega⟩
    have hfull : (regulatedStage s (s.drive.get c) (min 4095 current)).lowRun = 100 := by
      simp only [regulatedStage, hduty, he, hcount, and_self, if_true]
      rfl
    have hrow : exec (.regLowSet c current) s = exec (.drivePeriod c current) s := by
      rw [regLowSet_eq c current hheld, if_pos ⟨hclear, by rw [hstage]; exact hlow⟩]
    refine ⟨hrow, _, hrow.trans hrun, hstep, by rw [hdrive]; exact hlow, by rw [hdrive]; exact hfull,
      by rw [hdrive]; rfl, fun hwas hreport => ?_⟩
    rw [hstep]
    refine Bool.or_eq_true_iff.2 (.inr (Bool.and_eq_true_iff.2 ⟨by rw [hwas]; rfl, ?_⟩))
    refine (faultSummary_iff _ c).2 (.inr (.inr (.inl ⟨?_, ?_⟩)))
    · rw [hdrive]; exact hlow
    · rw [show (stageStep c current s).arb = s.arb from by rw [hstep]]
      exact hreport
  · have hlow : (regulatedStage s (s.drive.get c) (min 4095 current)).regLow = false := by
      have hnot : ¬20 < loopError (s.drive.get c) (min 4095 current) := by omega
      simp only [regulatedStage, hin, hcount, hnot, and_false, false_and, if_false, true_and]
      rfl
    have hfull : (regulatedStage s (s.drive.get c) (min 4095 current)).inRun = 100 := by
      simp only [regulatedStage, hin, hcount, if_true]
      rfl
    have hrow : exec (.regLowClear c current) s = exec (.drivePeriod c current) s := by
      rw [regLowClear_eq c current hheld, if_pos ⟨hset, by rw [hstage]; exact hlow⟩]
    exact ⟨hrow, _, hrow.trans hrun, hstep, by rw [hdrive]; exact hlow, by rw [hdrive]; exact hfull, by rw [hdrive]; rfl⟩
  · have hclean : (regulatedStage s (s.drive.get c) (min 4095 current)).cleanRun = 10000 := by
      simp only [regulatedStage, hcount]
      rfl
    have hretry : (regulatedStage s (s.drive.get c) (min 4095 current)).retry = 0 := if_pos (by omega)
    have hrow : exec (.cleanRunExpiry c current) s = exec (.drivePeriod c current) s := by
      rw [cleanRunExpiry_eq c current hheld, if_pos ⟨by omega, by rw [hstage]; exact hclean⟩]
    exact ⟨hrow, _, hrow.trans hrun, hstep, by rw [hdrive]; exact hretry, by rw [hdrive]; exact hclean,
      by rw [hdrive]; rfl⟩

end Sys2Proof.Machine
end

section
/-! PROOFS. CAL_SEGMENT in STANDBY with the store IDLE: the sequence rule and the END segment (R172 to R174). -/

namespace Sys2Proof.Machine

open Sys2Proof

/-! ## The sequence rule (R173) -/

theorem segmentRuling_refuses {k : CalStore} (index : Nat) (finish : Bool) (h : k.download ≠ .receiving) :
    segmentRuling k index false finish = .refuse := by
  rw [segmentRuling, if_neg Bool.false_ne_true]
  cases hd : k.download
  case receiving => exact absurd hd h
  all_goals rfl

theorem segmentRuling_receiving {k : CalStore} (index : Nat) (finish : Bool) (h : k.download = .receiving) :
    segmentRuling k index false finish =
      if index = k.expected ∧ (finish = true ↔ index = 9) then .accept else .abort := by
  rw [segmentRuling, if_neg Bool.false_ne_true, h]

theorem segmentRuling_start (k : CalStore) (index : Nat) (finish : Bool) :
    segmentRuling k index true finish = if index = 0 ∧ finish = false then .begin else .abort := if_pos rfl

theorem segmentRuling_aborts {k : CalStore} {index : Nat} {start finish : Bool}
    (h : (start = true ∧ (index ≠ 0 ∨ finish = true)) ∨
      (start = false ∧ k.download = .receiving ∧ ¬(index = k.expected ∧ (finish = true ↔ index = 9)))) :
    segmentRuling k index start finish = .abort := by
  rcases h with ⟨rfl, h⟩ | ⟨rfl, hdownload, hout⟩
  · rw [segmentRuling_start, if_neg]
    rintro ⟨hindex, hfinish⟩
    rcases h with h | h
    · exact h hindex
    · exact Bool.false_ne_true (hfinish.symm.trans h)
  · rw [segmentRuling_receiving index finish hdownload, if_neg hout]

section
variable {h : LinkHeader} {index flags : Byte} {data : Vector Byte 32} {s : State}

theorem performCalSegment_standby (hpart : s.sup.part = .standby) (hidle : s.cal.store = .idle) :
    performCalSegment h index flags data s =
      if 10 ≤ index.toNat then refuse h .badValue s else takeSegment h index flags data s := by
  simp only [performCalSegment, hpart, hidle]
  rfl

/-- A segment that aborts is answered with the counts the download had (R173, log entry 13). -/
theorem takeSegment_aborts (hruling : segmentRuling s.cal index.toNat (flags.getLsbD 0) (flags.getLsbD 1) = .abort) :
    takeSegment h index flags data s = answerDone h
      [index, 1, 2, BitVec.ofNat 8 s.cal.expected, BitVec.ofNat 8 s.cal.accepted, 0, 0, 0] (abortDownload s) := by
  simp only [takeSegment, hruling]
  rfl

theorem takeSegment_begins (hruling : segmentRuling s.cal index.toNat (flags.getLsbD 0) (flags.getLsbD 1) = .begin) :
    takeSegment h index flags data s = answerDone h [index, 0, 1, 1, 1, 2, 0, 0] (beginDownload data s) := by
  simp only [takeSegment, hruling]
  rfl

theorem takeSegment_accepts (hruling : segmentRuling s.cal index.toNat (flags.getLsbD 0) (flags.getLsbD 1) = .accept)
    (hlast : index.toNat ≠ 9) :
    takeSegment h index flags data s = answerDone h
      [index, 0, BitVec.ofNat 8 s.cal.download.code, BitVec.ofNat 8 (s.cal.expected + 1),
       BitVec.ofNat 8 (s.cal.accepted + 1), BitVec.ofNat 8 s.cal.imageState.code, 0, 0]
      (acceptSegment index.toNat data s) := by
  simp only [takeSegment, hruling, if_neg hlast]
  rfl

end

theorem setCal_linkKept (s : State) (k : CalStore) : linkKept s (s.setCal k) := ⟨rfl, rfl, rfl, rfl, rfl, rfl, rfl⟩

/-- Settles O42: each case of the sequence rule is one branch of the model's ruling. -/
theorem segmentsFollowTheSequenceRule : Obligations.SegmentsFollowTheSequenceRule := by
  intro h index flags data s hheld hfit hpart hidle hwf
  dsimp only
  have hparts : requestParts (.calSegment h index flags data) =
      some (.calSegment, h, index :: flags :: data.toList) := rfl
  have hruns := performCalSegment_standby (h := h) (index := index) (flags := flags) (data := data)
    (s := received .calSegment h s) hpart hidle
  have hruns_lt : index.toNat < 10 → performCalSegment h index flags data (received .calSegment h s) =
      takeSegment h index flags data (received .calSegment h s) := fun hlt => by rw [hruns, if_neg (Nat.not_le.2 hlt)]
  refine ⟨fun hindex => transact_refuses hparts hheld hfit (by rw [hruns, if_pos hindex]),
    fun hlt hstart hnot => transact_refuses hparts hheld hfit ?_, fun hzero hstart hfinish => ?_,
    fun hlt hstart hreceiving hin => ?_, fun hlt hout => ?_⟩
  · rw [hruns_lt hlt, takeSegment, hstart, received_cal, segmentRuling_refuses _ _ hnot]
  · have hbegins := takeSegment_begins (h := h) (index := index) (flags := flags) (data := data)
      (s := received .calSegment h s) (by rw [hstart, segmentRuling_start, if_pos ⟨hzero, hfinish⟩])
    obtain ⟨r, hrun, hframe, hreply⟩ := transact_done hparts hheld hfit
      ((hruns_lt (by omega)).trans hbegins) (setCal_linkKept _ _)
    refine ⟨_, hrun, hframe, ⟨rfl, rfl, rfl, rfl, rfl, rfl, rfl, rfl⟩, rfl, fun a => ?_, hreply⟩
    have hread := writeSegment_read (k := s.cal) (index := 0) data a (by decide) hwf
    simp only [Nat.mul_zero, Nat.zero_le, true_and, Nat.zero_add, Nat.sub_zero] at hread
    exact hread
  · have hlast : index.toNat ≠ 9 := Nat.ne_of_lt hlt
    have haccepts := takeSegment_accepts (h := h) (index := index) (flags := flags) (data := data)
      (s := received .calSegment h s)
      (by rw [hstart, segmentRuling_receiving _ _ (by exact hreceiving), if_pos (by exact hin)]) hlast
    obtain ⟨r, hrun, hframe, hreply⟩ := transact_done hparts hheld hfit
      ((hruns_lt (by omega)).trans haccepts) (setCal_linkKept _ _)
    refine ⟨_, hrun, hframe, ⟨rfl, rfl, rfl, rfl, rfl, rfl, rfl, rfl⟩, rfl, fun a => ?_, ?_⟩
    · exact writeSegment_read (k := s.cal) data a (by simp only [segmentCount]; omega) hwf
    · rw [received_cal, hreceiving] at hreply
      exact hreply
  · have haborts := takeSegment_aborts (h := h) (index := index) (flags := flags) (data := data)
      (s := received .calSegment h s) (segmentRuling_aborts hout)
    obtain ⟨r, hrun, hframe, hreply⟩ := transact_done hparts hheld hfit
      ((hruns_lt hlt).trans haborts) (setCal_linkKept _ _)
    exact ⟨_, hrun, hframe, ⟨rfl, rfl, rfl, rfl, rfl, rfl, rfl, rfl⟩, rfl, hreply⟩

/-! ## The END segment (R174) -/

/-- What validation finds in the image with the last segment written. -/
def foundAtEnd (data : Vector Byte 32) (k : CalStore) : Validation := validate (writeSegment 9 data k).working

theorem finishDownload_cal (data : Vector Byte 32) (s : State) : (finishDownload 9 data s).cal = { s.cal with
    working := (writeSegment 9 data s.cal).working,
    imageState := if foundAtEnd data s.cal = .pass then .valid else .invalid, download := .idle,
    expected := 0, accepted := s.cal.accepted + 1 } := rfl

theorem finishDownload_acq (data : Vector Byte 32) (s : State) (c : Corner) :
    (finishDownload 9 data s).acq.get c =
      if foundAtEnd data s.cal = .pass then { s.acq.get c with filter := none, vRel := 0 } else s.acq.get c := by
  rw [finishDownload, setImageState_acq, foundAtEnd]
  by_cases hpass : validate (writeSegment 9 data s.cal).working = .pass <;> simp [hpass]

theorem finishDownload_linkKept (data : Vector Byte 32) (s : State) : linkKept s (finishDownload 9 data s) := by
  obtain ⟨k, q, heq, -⟩ := finishDownload_frame 9 data s
  rw [heq]
  exact ⟨rfl, rfl, rfl, rfl, rfl, rfl, rfl⟩

/-- The two bytes of the validation result in the reply (section 11.4). -/
def validationBytes (found : Validation) : List Byte := [BitVec.ofNat 8 found.code.1, BitVec.ofNat 8 found.code.2]

theorem takeSegment_ends {h : LinkHeader} {flags : Byte} {data : Vector Byte 32} {s : State}
    (hruling : segmentRuling s.cal 9 (flags.getLsbD 0) (flags.getLsbD 1) = .accept) :
    takeSegment h 9 flags data s = answerDone h
      ([9, 0, 0, 0, BitVec.ofNat 8 (s.cal.accepted + 1), if foundAtEnd data s.cal = .pass then 1 else 0]
        ++ validationBytes (foundAtEnd data s.cal)) (finishDownload 9 data s) := by
  have hresult : finishResult (finishDownload 9 data s) = foundAtEnd data s.cal := rfl
  have hcode : BitVec.ofNat 8 (if foundAtEnd data s.cal = .pass then ImageState.valid else .invalid).code =
      if foundAtEnd data s.cal = .pass then 1 else 0 := by split <;> rfl
  have hindex : (9 : Byte).toNat = 9 := rfl
  simp only [takeSegment, hindex, hruling, if_true, hresult, finishDownload_cal, segmentReply, hcode]
  rfl

/-- Settles O43. -/
theorem endSegmentValidates : Obligations.EndSegmentValidates := by
  intro h flags data s hheld hfit hpart hidle hwf hreceiving hexpected hstart hfinish
  have hanswer : performCalSegment h 9 flags data (received .calSegment h s) = answerDone h
      ([9, 0, 0, 0, BitVec.ofNat 8 (s.cal.accepted + 1), if foundAtEnd data s.cal = .pass then 1 else 0]
        ++ validationBytes (foundAtEnd data s.cal)) (finishDownload 9 data (received .calSegment h s)) := by
    rw [performCalSegment_standby (s := received .calSegment h s) hpart hidle, if_neg (by decide)]
    refine takeSegment_ends (s := received .calSegment h s) ?_
    rw [received_cal, hstart, hfinish, segmentRuling_receiving _ _ hreceiving, if_pos ⟨hexpected.symm, by simp⟩]
  obtain ⟨r, hrun, hframe, hreply⟩ := transact_done (i := .calSegment h 9 flags data) rfl hheld hfit hanswer
    (finishDownload_linkKept _ _)
  have hcal := finishDownload_cal data (received .calSegment h s)
  refine ⟨_, hrun, hframe, ?_, fun a => ?_, ?_⟩
  · obtain ⟨k, q, heq, -⟩ := finishDownload_frame 9 data (received .calSegment h s)
    rw [heq]
    exact ⟨rfl, rfl, rfl, rfl, rfl, rfl, rfl, rfl⟩
  · rw [State.setReply_cal, hcal]
    dsimp only [received_cal]
    rw [writeSegment_read data a (by decide) hwf]
  · have hworking : ((finishDownload 9 data (received .calSegment h s)).setReply r).cal.working =
        (writeSegment 9 data s.cal).working := rfl
    dsimp only
    rw [hworking, ← foundAtEnd]
    refine ⟨?_, fun c => ?_, ?_⟩
    · rw [State.setReply_cal, hcal, received_cal]
    · rw [State.setReply_acq, finishDownload_acq, received_acq, received_cal]
    have hbytes : validationBytes (foundAtEnd data s.cal) = match foundAtEnd data s.cal with
        | .pass => [1, 0]
        | .crc => [2, 9]
        | .range segment => [3, BitVec.ofNat 8 segment]
        | .order segment => [4, BitVec.ofNat 8 segment]
        | .edges segment => [5, BitVec.ofNat 8 segment] := by
      cases foundAtEnd data s.cal <;> rfl
    rw [hbytes] at hreply
    exact hreply

end Sys2Proof.Machine
end

section
/-! PROOFS. Stores: CAL_STORE in STANDBY, the end of a store and a reset that breaks one (R176, R177). -/

namespace Sys2Proof.Machine

open Sys2Proof

/-! ## What is written and read back (R177) -/

theorem writtenImage_read_of_taken {m : Memory} {bad : List (Nat × Byte)} {a : Nat} (h : ∀ cell ∈ bad, cell.1 ≠ a) :
    (writtenImage m bad).read a = m.read a :=
  Memory.read_writeCells_ne m fun cell hcell => h cell (List.mem_of_mem_filter hcell)

theorem writtenImage_read_bad {m : Memory} {a : Nat} (b : Byte) (hm : m.wf) (ha : a < 320) :
    (writtenImage m [(a, b)]).read a = b := by
  have hin : ([(a, b)].filter fun cell => cell.1 < imageBytes) = [(a, b)] :=
    List.filter_eq_self.2 fun x hx => decide_eq_true (List.mem_singleton.1 hx ▸ ha)
  rw [writtenImage, hin]
  exact Memory.read_write_self a b hm

theorem imagesAgree_iff (m n : Memory) : imagesAgree m n = true ↔ ∀ a, a < 320 → m.read a = n.read a := by
  simp [imagesAgree, imageBytes]

/-! ## A reset while a store runs (R177, section 10.6) -/

/-- Each byte of the nonvolatile image is the new one or still the old one. -/
theorem nvAfterReset_read {s : State} (hbusy : s.cal.store = .busy) {a : Nat} (ha : a < 320) :
    (nvAfterReset s).read a = s.cal.working.read a ∨ (nvAfterReset s).read a = s.cal.nv.read a := by
  rw [nvAfterReset, if_pos hbusy, Memory.read_ofFn, if_pos (show a < imageBytes from ha)]
  by_cases hreached : Config.storeReached s.freeCount a = true
  · exact .inl (if_pos hreached)
  · exact .inr (if_neg hreached)

/-- What a reset leaves of a store that it interrupts, and what the START load finds after it. -/
def StoreBroken (s t : State) : Prop :=
  t.cal.store = .idle ∧ t.cal.lastResult = .none ∧ t.cal.nvMark = false ∧ t.cal.nv.wf ∧
    (∀ a, a < 320 → t.cal.nv.read a = s.cal.working.read a ∨ t.cal.nv.read a = s.cal.nv.read a) ∧
    ∃ u, exec .startLoadEnd { t with held := false } = .next u ∧ u.cal.imageState = .invalid ∧ u.sup.part = .standby

/-- A state with the calibration store of a reset of the blocks, in START, is one whose store the reset broke. -/
theorem storeBroken_of_reset {s t : State} (hbusy : s.cal.store = .busy) (hmark : s.cal.nvMark = false)
    (hcal : t.cal = CalStore.reset (nvAfterReset s) s.cal.nvMark) (hpart : t.sup.part = .start) : StoreBroken s t := by
  have hnv : t.cal.nv = nvAfterReset s := by rw [hcal]; rfl
  have hclear : t.cal.nvMark = false := by rw [hcal]; exact hmark
  have hwf : (nvAfterReset s).wf := by
    rw [nvAfterReset, if_pos hbusy]
    exact Memory.wf_ofFn _
  refine ⟨by rw [hcal]; rfl, by rw [hcal]; rfl, hclear, hnv ▸ hwf, fun a ha => hnv ▸ nvAfterReset_read hbusy ha,
    loadEnd { t with held := false }, whenOccurs_at rfl (by simp [loading, hpart]), ?_, rfl⟩
  simp [loadEnd, setImageState, loadedState_eq, hclear]

/-- Settles O46. -/
theorem storesBeginEndAndBreak : Obligations.StoresBeginEndAndBreak := by
  refine ⟨fun h bad s hheld hwf => ⟨fun hfit hpart => ⟨fun hbusy => ?_, fun hidle hnot => ?_, fun hidle hvalid => ?_⟩,
    fun hbusy => ?_, fun hidle => whenOccurs_not (by simp [storing, hidle])⟩, fun s h hbusy hmark hheld hfit i hi => ?_⟩
  · exact transact_refuses rfl hheld hfit (by simp [performCalStore, hpart, hbusy])
  · exact transact_refuses rfl hheld hfit (by simp [performCalStore, hpart, hidle, imageValid_false hnot])
  · obtain ⟨r, hrun, hframe, hreply⟩ := transact_done (i := .calStore h) (perform := performCalStore h) (answer := [])
      (u := beginStore (received .calStore h s)) rfl hheld hfit
      (by simp [performCalStore, hpart, hidle, State.imageValid_iff.2 hvalid]) (setCal_linkKept _ _)
    exact ⟨_, hrun, hframe, hreply, rfl, rfl, rfl, rfl, rfl, rfl, rfl, rfl⟩
  · have hrun : exec (.storeEnd bad) s = .next (storeEnd bad s) := whenOccurs_at hheld (by simp [storing, hbusy])
    refine ⟨storeEnd bad s, hrun, fun a _ hcells => writtenImage_read_of_taken hcells, fun a b hbad ha => ?_,
      fun hagree => ?_, fun hdiffer => ?_, rfl⟩
    · subst hbad
      exact writtenImage_read_bad b hwf ha
    · have hok : imagesAgree (writtenImage s.cal.working bad) s.cal.working = true := (imagesAgree_iff _ _).2 hagree
      simp [storeEnd, hok]
    · have hfailed : imagesAgree (writtenImage s.cal.working bad) s.cal.working = false :=
        Bool.eq_false_iff.2 (mt (imagesAgree_iff _ _).1 hdiffer)
      simp [storeEnd, hfailed]
  · rcases hi with rfl | rfl | rfl
    · exact ⟨_, rfl, storeBroken_of_reset (s := { s with held := false }) hbusy hmark rfl rfl⟩
    · have hrun : exec .brownoutReset s = .next (supplyReset .brownout { s with held := true }) := by
        simp [exec, execBrownoutReset, brownout, hheld]
      exact ⟨_, hrun, storeBroken_of_reset (s := { s with held := true }) hbusy hmark rfl rfl⟩
    · exact ⟨_, transact_performs performRestart (i := .restart h) rfl hheld hfit,
        storeBroken_of_reset (s := received .restart h s) hbusy hmark rfl rfl⟩

end Sys2Proof.Machine
end

section
/-! PROOFS. The link: invalid frames (R164), the CRC (R162) and the round trip of requests (R161, section 11.3). -/

namespace Sys2Proof.Machine

open Sys2Proof

/-! ## Invalid frames (R158 to R160, R164) -/

/-- What a rejected frame leaves (R164). -/
theorem rejectFrame_transacted (n : Nat) (cause : LinkCause) (seq : BitVec 4) (s : State) :
    let t := rejectFrame cause seq (transacted n s)
    t.sdo = shownBits s n ∧
      t.link =
        { receive := .idle, txPos := { byte := 0, bit := 0 }, errorLatch := true, lastCause := some cause,
          silence := s.link.silence,
          reply := { kind := .linkError, condition := t.conditionCode, seq := seq,
                     payload := [BitVec.ofNat 8 cause.code] } } ∧
      t = { s with sdo := t.sdo, link := t.link, sup := { s.sup with linkErr := true } } :=
  ⟨rfl, rfl, rfl⟩

section
variable {bits : List Bool} {s : State} (hheld : s.held = false)
include hheld

theorem invalidFrame_faulty {cause : LinkCause} (hfault : frameFault (gatherBits bits) = some cause) :
    exec (.invalidFrame (.ended bits)) s = .next (selectPeriod bits id s) := by
  simp [exec, execInvalidFrame, selectPart, hheld, hfault]

theorem invalidFrame_valid (hvalid : frameFault (gatherBits bits) = none) :
    exec (.invalidFrame (.ended bits)) s = .next s := by
  simp [exec, execInvalidFrame, hheld, hvalid]

theorem invalidFrame_inProgress : exec (.invalidFrame (.inProgress bits)) s = .next (clockIn bits s) := by
  simp [exec, execInvalidFrame, hheld]

end

/-- A select period without a bit is a SHORT_FRAME, were it a transaction. -/
theorem frameFault_gatherBits_nil : frameFault (gatherBits []) = some .shortFrame := rfl

/-- Every request is a transaction of its own. -/
theorem exec_request_transacts {i : Instr} {k : RequestKind} {h : LinkHeader} {payload : List Byte}
    (hparts : requestParts i = some (k, h, payload)) : ∃ perform, ∀ s, exec i s = transact i h perform s := by
  by_cases hrestart : k = .restart
  · subst hrestart
    cases i <;> cases hparts
    exact ⟨performRestart, fun _ => rfl⟩
  · obtain ⟨perform, -, hexec⟩ := exec_request_keepsModes hparts hrestart
    exact ⟨perform, hexec⟩

/-- Settles O48. -/
theorem invalidFramesAreRejected : Obligations.InvalidFramesAreRejected := by
  intro s hheld
  dsimp only
  refine ⟨fun bits cause hne hfault => ?_, fun i k h payload hparts hlong => ?_,
    fun bits hvalid => invalidFrame_valid hheld hvalid, ?_, fun bits => ?_⟩
  · refine ⟨rejectFrame cause (frameSeq (gatherBits bits)) (transacted bits.length s), ?_, rejectFrame_transacted _ _ _ _⟩
    rw [invalidFrame_faulty hheld hfault, selectPeriod_eq id s hne, hfault]
  · obtain ⟨perform, hexec⟩ := exec_request_transacts hparts
    exact ⟨_, (hexec s).trans (transact_overruns perform hparts hheld hlong), rejectFrame_transacted _ _ _ _⟩
  · rw [invalidFrame_faulty hheld frameFault_gatherBits_nil, selectPeriod_nil]
    rfl
  · rw [invalidFrame_inProgress hheld, clockIn_eq]
    rfl

/-! ## The CRC (R162) -/

/-- The register shifted `k` times, fed with the bit that was its own: shifted once more. -/
theorem crcBit_shifted (c : BitVec 16) {k : Nat} (hk : k < 16) : crcBit (c <<< k) (c.getLsbD (15 - k)) = c <<< (k + 1) := by
  have hmsb : (c <<< k).msb = c.getLsbD (15 - k) := by
    rw [BitVec.msb_eq_getLsbD_last, BitVec.getLsbD_shiftLeft]
    simp
    omega
  rw [← hmsb, crcBit_self, BitVec.shiftLeft_add]

/-- Fed with its own top `n` bits the register is shifted by `n`. -/
theorem crcBit_ownBits (c : BitVec 16) {n : Nat} (hn : n ≤ 16) :
    ((List.range n).map fun k => c.getLsbD (15 - k)).foldl crcBit c = c <<< n := by
  induction n with
  | zero => simp
  | succ n ih =>
    rw [List.range_succ, List.map_append, List.foldl_append, ih (by omega)]
    exact crcBit_shifted c (by omega)

/-- The two bytes of a CRC are its bits, most significant first. -/
theorem half_bits (c : BitVec 16) : (half c).flatMap byteBits = (List.range 16).map fun k => c.getLsbD (15 - k) := by
  simp [half, byteBits, List.range_succ]

/-- A register fed with its own two bytes is 0. -/
theorem crcByte_own (c : BitVec 16) : (half c).foldl crcByte c = 0#16 := by
  rw [crc16_eq_foldl_bits, half_bits, crcBit_ownBits c le_rfl]
  exact BitVec.shiftLeft_eq_zero le_rfl

/-- Settles O50. -/
theorem recordCrc : Obligations.RecordCrc := by
  refine ⟨fun bytes => crc16_eq_foldl_bits bytes _, by decide +kernel, fun bytes => ?_⟩
  rw [crc16, withCrc, List.foldl_append]
  exact crcByte_own (crc16 bytes)

/-! ## A request read back from its frame (R161, section 11.3) -/

/-- A two-byte field after its way over the link. -/
def readBack (x : Half) : Half := joinBytes (x.extractLsb' 8 8) (x.extractLsb' 0 8)

theorem readBack_eq (x : Half) : readBack x = x := joinBytes_half x

theorem requestOf_parts {i : Instr} {k : RequestKind} {h : LinkHeader} {payload : List Byte}
    (hparts : requestParts i = some (k, h, payload)) : requestOf k h payload = some i := by
  cases i <;> cases hparts
  case bodyState b =>
    show some (Instr.bodyState h
      { w := readBack b.w, p := readBack b.p, q := readBack b.q, speed := readBack b.speed,
        direction := b.direction,
        floors := { fl := readBack b.floors.fl, fr := readBack b.floors.fr, rl := readBack b.floors.rl,
                    rr := readBack b.floors.rr } }) = some (Instr.bodyState h b)
    simp only [readBack_eq]
  case previewEvent e =>
    show some (Instr.previewEvent h
      { tag := e.tag, track := e.track, severity := e.severity, report := e.report,
        distance := readBack e.distance, length := readBack e.length, lead := readBack e.lead,
        trail := readBack e.trail, cSoft := readBack e.cSoft, cFirm := readBack e.cFirm }) =
      some (Instr.previewEvent h e)
    simp only [readBack_eq]
  case calSegment index flags data => exact dif_pos (Vector.length_toList (xs := data))
  all_goals rfl

theorem fits_of_wellFormed {i : Instr} {k : RequestKind} {h : LinkHeader} {payload : List Byte}
    (hparts : requestParts i = some (k, h, payload)) (hwell : i.wellFormed = true) : fits k h := by
  have hfits := (Bool.and_eq_true_iff.1 hwell).1
  cases i <;> cases hparts <;> exact of_decide_eq_true hfits

theorem headerByte_split (a b : BitVec 4) : (a ++ b).extractLsb' 4 4 = a ∧ (a ++ b).extractLsb' 0 4 = b := by
  revert a b
  decide

theorem decodeRequest_valid {kind second len : Byte} {rest : List Byte} {extra : Fin 8} {k : RequestKind}
    (hvalid : frameFault { bytes := kind :: second :: len :: rest, extraBits := extra } = none)
    (hkind : kindOfCode kind = some k) :
    decodeRequest { bytes := kind :: second :: len :: rest, extraBits := extra } =
      requestOf k { seq := second.extractLsb' 4 4, mode := second.extractLsb' 0 4,
                    pad := (kind :: second :: len :: rest).length - (k.payload + 5) } (rest.take k.payload) := by
  simp only [decodeRequest, hvalid, hkind]

theorem decodeRequest_request {i : Instr} {k : RequestKind} {h : LinkHeader} {payload : List Byte}
    (hparts : requestParts i = some (k, h, payload)) (hfit : fits k h) :
    decodeRequest { bytes := requestBytes k h payload, extraBits := 0 } = some i := by
  have hlen := payload_length hparts
  have hpad : (requestBytes k h payload).length - (k.payload + 5) = h.pad := by
    rw [requestBytes_length hlen, transactionBytes, Nat.add_sub_cancel_left]
  have hform : requestBytes k h payload = k.code :: (h.seq ++ h.mode) :: BitVec.ofNat 8 k.payload ::
      (payload ++ (half (crc16 ([k.code, h.seq ++ h.mode, BitVec.ofNat 8 k.payload] ++ payload))
        ++ List.replicate h.pad 0)) := by
    simp [requestBytes, requestRecord, withCrc]
  obtain ⟨hseq, hmode⟩ := headerByte_split h.seq h.mode
  have hvalid := (frameFault_request (h := h) hlen).trans (if_pos hfit)
  rw [hform] at hpad hvalid ⊢
  rw [decodeRequest_valid hvalid (kindOfCode_code k), hpad, hseq, hmode, ← hlen, List.take_left]
  exact requestOf_parts hparts

/-- Settles O51. -/
theorem encodedRequestsDecode : Obligations.EncodedRequestsDecode := by
  intro i f hwell hencode
  cases hparts : requestParts i with
  | none => simp [encodeRequest, hparts] at hencode
  | some parts =>
    obtain ⟨k, h, payload⟩ := parts
    have hf : f = { bytes := requestBytes k h payload, extraBits := 0 } := by
      simpa [encodeRequest, hparts, requestBytes] using hencode.symm
    subst hf
    exact ⟨decodeRequest_request hparts (fits_of_wellFormed hparts hwell), by
      rw [requestBits_eq hparts, gatherBits_bitsOf]⟩

end Sys2Proof.Machine
end
